-- ==== Sys2Proof/Word.lean ====
section
/-! DEFINITION. The words of the machine: bytes, the 32-bit header word and source offset, the 80-bit tag word. -/

namespace Sys2Proof

/-- A byte of the byte source; bit 7 is its most significant bit (spec/00_scope.md R8). -/
abbrev Byte := BitVec 8

/-- A header word: `byte0` is the most significant byte (spec/00_scope.md R8, spec/20_memory.md R54). -/
abbrev Word := BitVec 32

/-- A source offset as the read port carries it, OFFSET_WIDTH = 32 bits, unsigned (spec/20_memory.md R51). -/
abbrev Offset := BitVec 32

/-- The ten tag-probe bytes, byte 0 in bits 79:72 (spec/10_state.md R23). -/
abbrev TagWord := BitVec 80

end Sys2Proof
end

