-- ==== Sys2Proof/Syntax.lean ====
section
/-! DEFINITION. Syntax: the fields of the two fetched formats, the header record DECODE produces, and `Instr`, one
constructor per row of spec/opcode_table.json. -/

namespace Sys2Proof

/-- The fields of MPEG_HDR32 below the layer code (spec/30_encoding.md R71). -/
structure HdrFields where
  /-- `P`, protection bit, word bit 16. -/
  prot : BitVec 1
  /-- `B`, bitrate index, word bits 15:12. -/
  bitrate : BitVec 4
  /-- `S`, sample-rate index, word bits 11:10. -/
  srate : BitVec 2
  /-- `G`, padding bit, word bit 9. -/
  pad : BitVec 1
  /-- `R`, private bit, word bit 8. -/
  priv : BitVec 1
  /-- `M`, channel mode, word bits 7:6. -/
  cmode : BitVec 2
  /-- `X`, mode extension, word bits 5:4. -/
  mext : BitVec 2
  /-- `C`, copyright, word bit 3. -/
  copy : BitVec 1
  /-- `O`, original, word bit 2. -/
  orig : BitVec 1
  /-- `E`, emphasis, word bits 1:0. -/
  emph : BitVec 2
  deriving DecidableEq, Repr

/-- The fields of ID3V2_HDR80 outside the signature and the footer flag (spec/30_encoding.md R80). -/
structure TagFields where
  /-- `v`, byte 3, ignored by the block. -/
  verMajor : Byte
  /-- `r`, byte 4, ignored by the block. -/
  verMinor : Byte
  /-- `a`, byte 5 bits 7-5, ignored by the block. -/
  flagsHigh : BitVec 3
  /-- `b`, byte 5 bits 3-0, ignored by the block. -/
  flagsLow : BitVec 4
  /-- `w` = b6. -/
  b6 : Byte
  /-- `x` = b7. -/
  b7 : Byte
  /-- `y` = b8. -/
  b8 : Byte
  /-- `z` = b9. -/
  b9 : Byte
  deriving DecidableEq, Repr

/-- A header record (spec/10_state.md R26): the raw codes and widths of that table. A field that is "only meaningful"
under a condition is an Option, `none` when the condition is false. -/
structure HeaderRec where
  version : BitVec 2
  lsf : Bool
  layer : BitVec 2
  hasCRC : Bool
  bitrateIndex : BitVec 4
  bitrateBps : BitVec 19
  sampleRateHz : BitVec 16
  paddingSize : BitVec 1
  samplesPerFrame : BitVec 11
  channelMode : BitVec 2
  modeExtension : BitVec 2
  emphasis : BitVec 2
  copyright : Bool
  privateBit : Bool
  original : Bool
  allocationTableIndex : Option (BitVec 3)
  intensityStereoBound : Option (BitVec 5)
  deriving DecidableEq, Repr, Inhabited

/-- The three formats of spec/opcode_table.json. The block tells the two fetched ones apart by where it reads
(spec/30_encoding.md R70); UNIT_OP is the naming code of spec/30_encoding.md R87, held in the low 3 bits of a byte. -/
inductive Format where
  | mpegHdr32
  | id3v2Hdr80
  | unitOp
  deriving DecidableEq, Repr

/-- Length of a format in bytes (spec/30_encoding.md R70). -/
def Format.bytes : Format → Nat
  | .mpegHdr32 => 4
  | .id3v2Hdr80 => 10
  | .unitOp => 1

/-- One constructor per row of spec/opcode_table.json. In a reject row `v` is the version code and `lr` the layer code
where the row leaves them open. -/
inductive Instr where
  /-- HDR_MPEG1_L1 -/
  | hdrMpeg1L1 (f : HdrFields)
  /-- HDR_MPEG1_L2 -/
  | hdrMpeg1L2 (f : HdrFields)
  /-- HDR_MPEG1_L3 -/
  | hdrMpeg1L3 (f : HdrFields)
  /-- HDR_MPEG2_L1 -/
  | hdrMpeg2L1 (f : HdrFields)
  /-- HDR_MPEG2_L2 -/
  | hdrMpeg2L2 (f : HdrFields)
  /-- HDR_MPEG2_L3 -/
  | hdrMpeg2L3 (f : HdrFields)
  /-- HDR_MPEG25_L1 -/
  | hdrMpeg25L1 (f : HdrFields)
  /-- HDR_MPEG25_L2 -/
  | hdrMpeg25L2 (f : HdrFields)
  /-- HDR_MPEG25_L3 -/
  | hdrMpeg25L3 (f : HdrFields)
  /-- HDR_REJECT_VERSION_RESERVED: v = 1. -/
  | hdrRejectVersionReserved (lr : BitVec 2) (f : HdrFields)
  /-- HDR_REJECT_LAYER_RESERVED: lr = 0. -/
  | hdrRejectLayerReserved (v : BitVec 2) (f : HdrFields)
  /-- HDR_REJECT_BITRATE_INDEX_15: not a candidate. -/
  | hdrRejectBitrateIndex15 (v lr : BitVec 2) (f : HdrFields)
  /-- HDR_REJECT_BITRATE_INDEX_0. -/
  | hdrRejectBitrateIndex0 (v lr : BitVec 2) (f : HdrFields)
  /-- HDR_REJECT_SAMPLERATE_INDEX_3. -/
  | hdrRejectSamplerateIndex3 (v lr : BitVec 2) (f : HdrFields)
  /-- HDR_REJECT_EMPHASIS_RESERVED. -/
  | hdrRejectEmphasisReserved (v lr : BitVec 2) (f : HdrFields)
  /-- HDR_REJECT_M1L2_BI1_CM0 -/
  | hdrRejectM1l2Bi1Cm0 (f : HdrFields)
  /-- HDR_REJECT_M1L2_BI1_CM1 -/
  | hdrRejectM1l2Bi1Cm1 (f : HdrFields)
  /-- HDR_REJECT_M1L2_BI1_CM2 -/
  | hdrRejectM1l2Bi1Cm2 (f : HdrFields)
  /-- HDR_REJECT_M1L2_BI2_CM0 -/
  | hdrRejectM1l2Bi2Cm0 (f : HdrFields)
  /-- HDR_REJECT_M1L2_BI2_CM1 -/
  | hdrRejectM1l2Bi2Cm1 (f : HdrFields)
  /-- HDR_REJECT_M1L2_BI2_CM2 -/
  | hdrRejectM1l2Bi2Cm2 (f : HdrFields)
  /-- HDR_REJECT_M1L2_BI3_CM0 -/
  | hdrRejectM1l2Bi3Cm0 (f : HdrFields)
  /-- HDR_REJECT_M1L2_BI3_CM1 -/
  | hdrRejectM1l2Bi3Cm1 (f : HdrFields)
  /-- HDR_REJECT_M1L2_BI3_CM2 -/
  | hdrRejectM1l2Bi3Cm2 (f : HdrFields)
  /-- HDR_REJECT_M1L2_BI5_CM0 -/
  | hdrRejectM1l2Bi5Cm0 (f : HdrFields)
  /-- HDR_REJECT_M1L2_BI5_CM1 -/
  | hdrRejectM1l2Bi5Cm1 (f : HdrFields)
  /-- HDR_REJECT_M1L2_BI5_CM2 -/
  | hdrRejectM1l2Bi5Cm2 (f : HdrFields)
  /-- HDR_REJECT_M1L2_BI11_MONO -/
  | hdrRejectM1l2Bi11Mono (f : HdrFields)
  /-- HDR_REJECT_M1L2_BI12_MONO -/
  | hdrRejectM1l2Bi12Mono (f : HdrFields)
  /-- HDR_REJECT_M1L2_BI13_MONO -/
  | hdrRejectM1l2Bi13Mono (f : HdrFields)
  /-- HDR_REJECT_M1L2_BI14_MONO -/
  | hdrRejectM1l2Bi14Mono (f : HdrFields)
  /-- ID3V2_TAG_NO_FOOTER -/
  | id3v2TagNoFooter (t : TagFields)
  /-- ID3V2_TAG_FOOTER -/
  | id3v2TagFooter (t : TagFields)
  /-- DETECT, uid 0. -/
  | detect
  /-- SKIPTAG, uid 1. -/
  | skiptag
  /-- FINDFRAME, uid 2. -/
  | findframe
  /-- VERIFY, uid 3. -/
  | verify
  /-- DECODE, uid 4. -/
  | decode
  /-- FSIZE, uid 5. -/
  | fsize
  /-- MATCH, uid 6. -/
  | matchHeaders
  deriving DecidableEq, Repr

end Sys2Proof
end

