-- ==== Sys2Proof/Config.lean ====
section
/-! DEFINITION. What the hardware fixes (spec/00_scope.md R6), the two parameters it lets a model vary, and the free
values. -/

namespace Sys2Proof

namespace Config

/-- MAX_SCAN_RANGE: a forward scan examines at most this many offsets (spec/00_scope.md R6, R7). -/
def maxScanRange : Nat := 16384

/-- EXACT_TOLERANCE: an exact-offset scan makes at most this many displaced probes (spec/00_scope.md R6, R7). -/
def exactTolerance : Nat := 6

/-- TAG_HEADER_LEN (spec/00_scope.md R6). -/
def tagHeaderLen : Nat := 10

/-- TAG_FOOTER_LEN (spec/00_scope.md R6). -/
def tagFooterLen : Nat := 10

/-- HEADER_LEN (spec/00_scope.md R6). -/
def headerLen : Nat := 4

end Config

/-- PROBE_MODE (spec/00_scope.md R6, spec/92_eei_decisions.md D8). -/
inductive ProbeMode where
  | cumulative
  | absolute
  deriving DecidableEq, Repr

/-- EOS_POLICY (spec/00_scope.md R6, spec/92_eei_decisions.md D16). -/
inductive EosPolicy where
  | failedAttempt
  | stopAtOnce
  deriving DecidableEq, Repr

/-- The parameters spec/00_scope.md R6 marks "argument, default as shown". DESIGN CHOICE (log 14): ALLOC is the case
table, MAX_SCAN_RANGE and EXACT_TOLERANCE are constants. -/
structure Params where
  probeMode : ProbeMode
  eosPolicy : EosPolicy
  deriving DecidableEq, Repr

/-- The defaults of spec/00_scope.md R6. -/
def Params.default : Params := { probeMode := .cumulative, eosPolicy := .failedAttempt }

namespace Config

/-- FREE VALUE (log 7). The fields of HC and HB after an `rst` step, "unspecified" in spec/10_state.md R37; indexed by
`State.freeCount`, so that two resets need not agree. -/
opaque unspecifiedHeader : Nat → HeaderRec

/-- FREE VALUE (log 8). FSIZE of a record that is no valid header: spec/42_frame_size.md R133 defines FSIZE only on valid
header records. -/
opaque fsizeOfInvalid : HeaderRec → BitVec 12

/-- FREE VALUE (log 9). MATCH when an operand is no valid header: spec/43_compatibility.md R140 takes two valid records. -/
opaque matchOfInvalid : HeaderRec → HeaderRec → Bool

end Config

end Sys2Proof
end

