-- ==== Sys2Proof/WellFormed.lean ====
section
/-! DEFINITION. Which instructions the decoder can produce: each row's fixed fields (spec/opcode_table.json) and, since
rows of the table overlap, no defect of an earlier place in the order of rejection (spec/30_encoding.md R84,
spec/41_header_decoder.md R114; log 5). -/

namespace Sys2Proof

/-- No defect among the fields below the layer code: `1 <= bi <= 14`, `si != 3`, `em != 2` (R113). -/
def HdrFields.clean (f : HdrFields) : Bool :=
  f.bitrate != 15 && f.bitrate != 0 && f.srate != 3 && f.emph != 2

/-- The MPEG1 Layer2 cells that have a reject row of their own (spec/opcode_table.json, R112). -/
def HdrFields.m1l2Disallowed (f : HdrFields) : Bool :=
  ((f.bitrate == 1 || f.bitrate == 2 || f.bitrate == 3 || f.bitrate == 5) && f.cmode != 3) ||
  ((f.bitrate == 11 || f.bitrate == 12 || f.bitrate == 13 || f.bitrate == 14) && f.cmode == 3)

/-- The fixed fields of an MPEG1 Layer2 reject row, and no defect of an earlier step. -/
def HdrFields.m1l2Cell (f : HdrFields) (bi : BitVec 4) (cm : BitVec 2) : Bool :=
  f.bitrate == bi && f.cmode == cm && f.srate != 3 && f.emph != 2

/-- The instruction is one that some word of the table's row decodes to. -/
def Instr.wellFormed : Instr → Bool
  | .hdrMpeg1L1 f => f.clean
  | .hdrMpeg1L2 f => f.clean && !f.m1l2Disallowed
  | .hdrMpeg1L3 f => f.clean
  | .hdrMpeg2L1 f => f.clean
  | .hdrMpeg2L2 f => f.clean
  | .hdrMpeg2L3 f => f.clean
  | .hdrMpeg25L1 f => f.clean
  | .hdrMpeg25L2 f => f.clean
  | .hdrMpeg25L3 f => f.clean
  | .hdrRejectVersionReserved _ f => f.bitrate != 15
  | .hdrRejectLayerReserved v f => f.bitrate != 15 && v != 1
  | .hdrRejectBitrateIndex15 _ _ f => f.bitrate == 15
  | .hdrRejectBitrateIndex0 v lr f => f.bitrate == 0 && v != 1 && lr != 0
  | .hdrRejectSamplerateIndex3 v lr f => f.srate == 3 && f.bitrate != 15 && f.bitrate != 0 && v != 1 && lr != 0
  | .hdrRejectEmphasisReserved v lr f =>
      f.emph == 2 && f.srate != 3 && f.bitrate != 15 && f.bitrate != 0 && v != 1 && lr != 0
  | .hdrRejectM1l2Bi1Cm0 f => f.m1l2Cell 1 0
  | .hdrRejectM1l2Bi1Cm1 f => f.m1l2Cell 1 1
  | .hdrRejectM1l2Bi1Cm2 f => f.m1l2Cell 1 2
  | .hdrRejectM1l2Bi2Cm0 f => f.m1l2Cell 2 0
  | .hdrRejectM1l2Bi2Cm1 f => f.m1l2Cell 2 1
  | .hdrRejectM1l2Bi2Cm2 f => f.m1l2Cell 2 2
  | .hdrRejectM1l2Bi3Cm0 f => f.m1l2Cell 3 0
  | .hdrRejectM1l2Bi3Cm1 f => f.m1l2Cell 3 1
  | .hdrRejectM1l2Bi3Cm2 f => f.m1l2Cell 3 2
  | .hdrRejectM1l2Bi5Cm0 f => f.m1l2Cell 5 0
  | .hdrRejectM1l2Bi5Cm1 f => f.m1l2Cell 5 1
  | .hdrRejectM1l2Bi5Cm2 f => f.m1l2Cell 5 2
  | .hdrRejectM1l2Bi11Mono f => f.m1l2Cell 11 3
  | .hdrRejectM1l2Bi12Mono f => f.m1l2Cell 12 3
  | .hdrRejectM1l2Bi13Mono f => f.m1l2Cell 13 3
  | .hdrRejectM1l2Bi14Mono f => f.m1l2Cell 14 3
  | .id3v2TagNoFooter _ => true
  | .id3v2TagFooter _ => true
  | .detect => true
  | .skiptag => true
  | .findframe => true
  | .verify => true
  | .decode => true
  | .fsize => true
  | .matchHeaders => true

end Sys2Proof
end

