-- ==== Sys2Proof/Decode.lean ====
section
/-! DEFINITION. The decoder from bytes to rows of spec/opcode_table.json, total and rejecting by name, and the encoder
back (spec/30_encoding.md R70 to R80, R84, R87). -/

namespace Sys2Proof

/-- Why bytes are no row of the table. -/
inductive DecodeReject where
  /-- The list is not as long as the format. -/
  | wrongLength
  /-- `w[31:21] != 0x7FF` (R84 class 1). -/
  | noSync
  /-- Bytes 0 to 2 are not "ID3" (spec/44_id3v2_skipper.md R148). -/
  | noSignature
  /-- Unit code 7, unassigned, or a code byte with a bit above the three of R87. -/
  | unassignedUnit
  deriving DecidableEq, Repr

/-! ### Bit fields and byte order -/

/-- The header word `byte0 || byte1 || byte2 || byte3`, whose number is
`byte0 * 2^24 + byte1 * 2^16 + byte2 * 2^8 + byte3` (R8, R54, spec/45_sync_scanner.md R155). -/
def wordOfBytes (b0 b1 b2 b3 : Byte) : Word := b0 ++ b1 ++ b2 ++ b3

/-- The four bytes of a header word, most significant first. -/
def bytesOfWord (w : Word) : List Byte :=
  [w.extractLsb' 24 8, w.extractLsb' 16 8, w.extractLsb' 8 8, w.extractLsb' 0 8]

/-- `w[31:21]` (R71). -/
def syncField (w : Word) : BitVec 11 := w.extractLsb' 21 11

/-- `w[20:19]`, the version code (R73). -/
def versionField (w : Word) : BitVec 2 := w.extractLsb' 19 2

/-- `w[18:17]`, the layer code (R74). -/
def layerField (w : Word) : BitVec 2 := w.extractLsb' 17 2

/-- The fields below the layer code (R71). -/
def fieldsOfWord (w : Word) : HdrFields where
  prot := w.extractLsb' 16 1
  bitrate := w.extractLsb' 12 4
  srate := w.extractLsb' 10 2
  pad := w.extractLsb' 9 1
  priv := w.extractLsb' 8 1
  cmode := w.extractLsb' 6 2
  mext := w.extractLsb' 4 2
  copy := w.extractLsb' 3 1
  orig := w.extractLsb' 2 1
  emph := w.extractLsb' 0 2

/-- The word `11111111 111VVLLP BBBBSSGR MMXXCOEE` (R71), most significant field first. -/
def wordOfFields (v lr : BitVec 2) (f : HdrFields) : Word :=
  (0x7FF : BitVec 11) ++ v ++ lr ++ f.prot ++ f.bitrate ++ f.srate ++ f.pad ++ f.priv ++ f.cmode ++ f.mext ++ f.copy ++
    f.orig ++ f.emph

/-- `"ID3"` = 0x49 0x44 0x33 (R54, R148). PRESUMED by the spec: the ASCII codes are from general knowledge (log 15). -/
def tagSignature : List Byte := [0x49, 0x44, 0x33]

/-- Bit 4 of the flags byte, the footer-present flag (R80). -/
def footerFlag (b5 : Byte) : Bool := b5.getLsbD 4

/-- Byte 5 of a tag header: `aaaFbbbb` (R80). -/
def flagsByte (a : BitVec 3) (footer : Bool) (b : BitVec 4) : Byte := a ++ BitVec.ofBool footer ++ b

/-! ### Decoding -/

/-- The rows of MPEG1 Layer2: sixteen disallowed cells, else the valid row (R112). -/
def classifyMpeg1L2 (f : HdrFields) : Instr :=
  if f.bitrate = 1 ∧ f.cmode = 0 then .hdrRejectM1l2Bi1Cm0 f else
  if f.bitrate = 1 ∧ f.cmode = 1 then .hdrRejectM1l2Bi1Cm1 f else
  if f.bitrate = 1 ∧ f.cmode = 2 then .hdrRejectM1l2Bi1Cm2 f else
  if f.bitrate = 2 ∧ f.cmode = 0 then .hdrRejectM1l2Bi2Cm0 f else
  if f.bitrate = 2 ∧ f.cmode = 1 then .hdrRejectM1l2Bi2Cm1 f else
  if f.bitrate = 2 ∧ f.cmode = 2 then .hdrRejectM1l2Bi2Cm2 f else
  if f.bitrate = 3 ∧ f.cmode = 0 then .hdrRejectM1l2Bi3Cm0 f else
  if f.bitrate = 3 ∧ f.cmode = 1 then .hdrRejectM1l2Bi3Cm1 f else
  if f.bitrate = 3 ∧ f.cmode = 2 then .hdrRejectM1l2Bi3Cm2 f else
  if f.bitrate = 5 ∧ f.cmode = 0 then .hdrRejectM1l2Bi5Cm0 f else
  if f.bitrate = 5 ∧ f.cmode = 1 then .hdrRejectM1l2Bi5Cm1 f else
  if f.bitrate = 5 ∧ f.cmode = 2 then .hdrRejectM1l2Bi5Cm2 f else
  if f.bitrate = 11 ∧ f.cmode = 3 then .hdrRejectM1l2Bi11Mono f else
  if f.bitrate = 12 ∧ f.cmode = 3 then .hdrRejectM1l2Bi12Mono f else
  if f.bitrate = 13 ∧ f.cmode = 3 then .hdrRejectM1l2Bi13Mono f else
  if f.bitrate = 14 ∧ f.cmode = 3 then .hdrRejectM1l2Bi14Mono f else
  .hdrMpeg1L2 f

/-- The row of a word with sync. Index 15 is tested first, because such a word is no candidate and is never decoded (R84
class 2); then MP3D's order of rejection 1, 3, 5, 6, 12, 13 (spec/41_header_decoder.md R114). DEDUCED (log 5). -/
def classify (v lr : BitVec 2) (f : HdrFields) : Instr :=
  if f.bitrate = 15 then .hdrRejectBitrateIndex15 v lr f
  else if v = 1 then .hdrRejectVersionReserved lr f
  else if lr = 0 then .hdrRejectLayerReserved v f
  else if f.bitrate = 0 then .hdrRejectBitrateIndex0 v lr f
  else if f.srate = 3 then .hdrRejectSamplerateIndex3 v lr f
  else if f.emph = 2 then .hdrRejectEmphasisReserved v lr f
  else if v = 3 then
    if lr = 3 then .hdrMpeg1L1 f else if lr = 2 then classifyMpeg1L2 f else .hdrMpeg1L3 f
  else if v = 2 then
    if lr = 3 then .hdrMpeg2L1 f else if lr = 2 then .hdrMpeg2L2 f else .hdrMpeg2L3 f
  else
    if lr = 3 then .hdrMpeg25L1 f else if lr = 2 then .hdrMpeg25L2 f else .hdrMpeg25L3 f

/-- A 4-byte fetch (R70, R84). -/
def decodeHeaderWord (w : Word) : Except DecodeReject Instr :=
  if syncField w = 0x7FF then .ok (classify (versionField w) (layerField w) (fieldsOfWord w))
  else .error .noSync

/-- A 10-byte fetch (R80, R148, R150). -/
def decodeTagBytes (t0 t1 t2 t3 t4 t5 t6 t7 t8 t9 : Byte) : Except DecodeReject Instr :=
  if [t0, t1, t2] = tagSignature then
    let t : TagFields :=
      { verMajor := t3, verMinor := t4, flagsHigh := t5.extractLsb' 5 3, flagsLow := t5.extractLsb' 0 4,
        b6 := t6, b7 := t7, b8 := t8, b9 := t9 }
    if footerFlag t5 then .ok (.id3v2TagFooter t) else .ok (.id3v2TagNoFooter t)
  else .error .noSignature

/-- A unit code (R87). -/
def decodeUnitCode (b : Byte) : Except DecodeReject Instr :=
  match b.toNat with
  | 0 => .ok .detect
  | 1 => .ok .skiptag
  | 2 => .ok .findframe
  | 3 => .ok .verify
  | 4 => .ok .decode
  | 5 => .ok .fsize
  | 6 => .ok .matchHeaders
  | _ => .error .unassignedUnit

/-- The row that bytes of a format are, or why they are none. -/
def decode (fmt : Format) (bytes : List Byte) : Except DecodeReject Instr :=
  match fmt with
  | .mpegHdr32 =>
    match bytes with
    | [b0, b1, b2, b3] => decodeHeaderWord (wordOfBytes b0 b1 b2 b3)
    | _ => .error .wrongLength
  | .id3v2Hdr80 =>
    match bytes with
    | [t0, t1, t2, t3, t4, t5, t6, t7, t8, t9] => decodeTagBytes t0 t1 t2 t3 t4 t5 t6 t7 t8 t9
    | _ => .error .wrongLength
  | .unitOp =>
    match bytes with
    | [b] => decodeUnitCode b
    | _ => .error .wrongLength

/-! ### Encoding -/

/-- The format of a row. -/
def Instr.format : Instr → Format
  | .id3v2TagNoFooter _ | .id3v2TagFooter _ => .id3v2Hdr80
  | .detect | .skiptag | .findframe | .verify | .decode | .fsize | .matchHeaders => .unitOp
  | .hdrMpeg1L1 _ | .hdrMpeg1L2 _ | .hdrMpeg1L3 _ | .hdrMpeg2L1 _ | .hdrMpeg2L2 _ | .hdrMpeg2L3 _ | .hdrMpeg25L1 _ | .hdrMpeg25L2 _ | .hdrMpeg25L3 _
  | .hdrRejectVersionReserved _ _ | .hdrRejectLayerReserved _ _ | .hdrRejectBitrateIndex15 _ _ _
  | .hdrRejectBitrateIndex0 _ _ _ | .hdrRejectSamplerateIndex3 _ _ _ | .hdrRejectEmphasisReserved _ _ _
  | .hdrRejectM1l2Bi1Cm0 _ | .hdrRejectM1l2Bi1Cm1 _ | .hdrRejectM1l2Bi1Cm2 _
  | .hdrRejectM1l2Bi2Cm0 _ | .hdrRejectM1l2Bi2Cm1 _ | .hdrRejectM1l2Bi2Cm2 _
  | .hdrRejectM1l2Bi3Cm0 _ | .hdrRejectM1l2Bi3Cm1 _ | .hdrRejectM1l2Bi3Cm2 _
  | .hdrRejectM1l2Bi5Cm0 _ | .hdrRejectM1l2Bi5Cm1 _ | .hdrRejectM1l2Bi5Cm2 _
  | .hdrRejectM1l2Bi11Mono _ | .hdrRejectM1l2Bi12Mono _ | .hdrRejectM1l2Bi13Mono _
  | .hdrRejectM1l2Bi14Mono _ => .mpegHdr32

/-- The ten bytes of a tag header (R80). -/
def bytesOfTag (footer : Bool) (t : TagFields) : List Byte :=
  tagSignature ++ [t.verMajor, t.verMinor, flagsByte t.flagsHigh footer t.flagsLow, t.b6, t.b7, t.b8, t.b9]

/-- The bytes of an instruction, in increasing source offset. -/
def encode : Instr → List Byte
  | .hdrMpeg1L1 f => bytesOfWord (wordOfFields 3 3 f)
  | .hdrMpeg1L2 f => bytesOfWord (wordOfFields 3 2 f)
  | .hdrMpeg1L3 f => bytesOfWord (wordOfFields 3 1 f)
  | .hdrMpeg2L1 f => bytesOfWord (wordOfFields 2 3 f)
  | .hdrMpeg2L2 f => bytesOfWord (wordOfFields 2 2 f)
  | .hdrMpeg2L3 f => bytesOfWord (wordOfFields 2 1 f)
  | .hdrMpeg25L1 f => bytesOfWord (wordOfFields 0 3 f)
  | .hdrMpeg25L2 f => bytesOfWord (wordOfFields 0 2 f)
  | .hdrMpeg25L3 f => bytesOfWord (wordOfFields 0 1 f)
  | .hdrRejectVersionReserved lr f => bytesOfWord (wordOfFields 1 lr f)
  | .hdrRejectLayerReserved v f => bytesOfWord (wordOfFields v 0 f)
  | .hdrRejectBitrateIndex15 v lr f => bytesOfWord (wordOfFields v lr f)
  | .hdrRejectBitrateIndex0 v lr f => bytesOfWord (wordOfFields v lr f)
  | .hdrRejectSamplerateIndex3 v lr f => bytesOfWord (wordOfFields v lr f)
  | .hdrRejectEmphasisReserved v lr f => bytesOfWord (wordOfFields v lr f)
  | .hdrRejectM1l2Bi1Cm0 f => bytesOfWord (wordOfFields 3 2 f)
  | .hdrRejectM1l2Bi1Cm1 f => bytesOfWord (wordOfFields 3 2 f)
  | .hdrRejectM1l2Bi1Cm2 f => bytesOfWord (wordOfFields 3 2 f)
  | .hdrRejectM1l2Bi2Cm0 f => bytesOfWord (wordOfFields 3 2 f)
  | .hdrRejectM1l2Bi2Cm1 f => bytesOfWord (wordOfFields 3 2 f)
  | .hdrRejectM1l2Bi2Cm2 f => bytesOfWord (wordOfFields 3 2 f)
  | .hdrRejectM1l2Bi3Cm0 f => bytesOfWord (wordOfFields 3 2 f)
  | .hdrRejectM1l2Bi3Cm1 f => bytesOfWord (wordOfFields 3 2 f)
  | .hdrRejectM1l2Bi3Cm2 f => bytesOfWord (wordOfFields 3 2 f)
  | .hdrRejectM1l2Bi5Cm0 f => bytesOfWord (wordOfFields 3 2 f)
  | .hdrRejectM1l2Bi5Cm1 f => bytesOfWord (wordOfFields 3 2 f)
  | .hdrRejectM1l2Bi5Cm2 f => bytesOfWord (wordOfFields 3 2 f)
  | .hdrRejectM1l2Bi11Mono f => bytesOfWord (wordOfFields 3 2 f)
  | .hdrRejectM1l2Bi12Mono f => bytesOfWord (wordOfFields 3 2 f)
  | .hdrRejectM1l2Bi13Mono f => bytesOfWord (wordOfFields 3 2 f)
  | .hdrRejectM1l2Bi14Mono f => bytesOfWord (wordOfFields 3 2 f)
  | .id3v2TagNoFooter t => bytesOfTag false t
  | .id3v2TagFooter t => bytesOfTag true t
  | .detect => [0]
  | .skiptag => [1]
  | .findframe => [2]
  | .verify => [3]
  | .decode => [4]
  | .fsize => [5]
  | .matchHeaders => [6]

/-! ### The table's numbering -/

/-- `n` bytes of a number, most significant first: the table numbers a format as ONE word with bit 0 least significant,
and the hardware stores the most significant byte at the lowest offset (R8, R54; log 20). -/
def bytesOfNat : Nat → Nat → List Byte
  | 0, _ => []
  | n + 1, w => BitVec.ofNat 8 (w / 2 ^ (8 * n)) :: bytesOfNat n w

/-- The format whose table rows have `nbits` bits in whole bytes: 8, 32 or 80 (log 20). -/
def tableFormat (nbits : Nat) : Format :=
  if nbits ≤ 8 then .unitOp else if nbits ≤ 32 then .mpegHdr32 else .id3v2Hdr80

/-- The instruction of a word numbered as spec/opcode_table.json numbers it. -/
def decodeTableWord (nbits w : Nat) : Option Instr :=
  (decode (tableFormat nbits) (bytesOfNat (tableFormat nbits).bytes w)).toOption

end Sys2Proof
end

