-- ==== Sys2Proof/Machine/State.lean ====
section
/-! DEFINITION. The state of the block (spec/10_state.md), the byte source and inputs beside it, the reasons a step can
stop, and the state after reset. -/

namespace Sys2Proof.Machine

/-- The reasons a step stops with a fault: none. spec/60_exceptions.md R200: "Nothing is fatal/crashing; every
malformed-input path is a defined negative result". -/
inductive Fault where
  deriving DecidableEq, Repr

/-- The reasons a step refuses. -/
inductive Refusal where
  /-- Raised by an arm of `exec` that has no meaning yet; safe. No arm raises it in this model. -/
  | notModelled (mnemonic : String)
  /-- Raised by `step` when `unitReq` holds a code that names no unit (uid 7 or above; spec/30_encoding.md R87:
  "7 = unassigned"); safe, because the code is on no port of the block (log 21). -/
  | unassignedUnit (code : Byte)
  deriving DecidableEq, Repr

/-- The four failure kinds (spec/60_exceptions.md R200). They are outcome values, not faults. -/
inductive FailureKind where
  | invalidHeader
  | chainMismatch
  | scanExhausted
  | sourceUnreadable
  deriving DecidableEq, Repr

/-- The phase register (spec/10_state.md R25, R28); symbolic, its encoding is not observable. -/
inductive Phase where
  | idle
  | tag
  | scan1
  | scan2
  deriving DecidableEq, Repr

/-- The byte source `SRC[0 .. SRC_LEN - 1]` (spec/20_memory.md R50): its length, and the bytes that differ from the
unlisted byte (log 1). -/
structure Memory where
  /-- SRC_LEN. -/
  len : Nat
  /-- Addresses strictly rising, none at `len` or beyond, no entry equal to the unlisted byte (`Memory.wf`). -/
  cells : List Host.Cell
  deriving DecidableEq, Repr

/-- The response half of the read port (spec/20_memory.md R62), the meaningful bits only (log 19). -/
inductive PortResponse where
  /-- `src_rsp_valid = 0`. -/
  | none
  /-- `src_rsp_valid = 1`, `src_rsp_ok = 0`: Short. -/
  | short
  /-- `src_rsp_ok = 1` for a 4-byte read: data bits 79:48. -/
  | word (data : Word)
  /-- `src_rsp_ok = 1` for a 10-byte read: data bits 79:0. -/
  | tag (data : TagWord)
  deriving DecidableEq, Repr

/-- The read port during the last step that read (spec/20_memory.md R62). -/
structure ReadPort where
  /-- `src_req_valid`. -/
  reqValid : Bool
  /-- `src_req_addr`. -/
  reqAddr : Offset
  /-- `src_req_len`: false requests 4 bytes, true 10. -/
  reqLen : Bool
  rsp : PortResponse
  deriving DecidableEq, Repr

/-- No request and no response. -/
def ReadPort.idle : ReadPort := { reqValid := false, reqAddr := 0, reqLen := false, rsp := .none }

/-- The result of a unit operation run alone, in the constructors of spec/00_scope.md R9. The spec gives it no register:
the MODEL'S own ghost (log 16). -/
inductive UnitResult where
  /-- SKIPTAG's offset. -/
  | offset (off : Nat)
  /-- FINDFRAME's `Found(h, p)`. -/
  | found (h : HeaderRec) (p : Int)
  /-- FINDFRAME's `NotFound(K)`. -/
  | notFound (k : FailureKind)
  /-- The bit of VERIFY, MATCH or DETECT. -/
  | bit (b : Bool)
  /-- DECODE's `Ok(h)`. -/
  | header (h : HeaderRec)
  /-- DECODE's `InvalidHeader`. -/
  | invalidHeader
  /-- FSIZE's byte count. -/
  | size (n : Nat)
  deriving DecidableEq, Repr

/-- The state. First the registers of spec/10_state.md R20, then the read port, the parameters, the inputs, and the
model's own fields. -/
structure State where
  /-- The scan cursor (R22). -/
  pc : Offset
  /-- The offset at which the current scan started (R23). -/
  origin : Offset
  /-- Failed attempts of the current forward scan (R23). -/
  n : BitVec 15
  /-- `step`: the displacement the next exact-offset resync applies (R23). -/
  stepReg : BitVec 3
  /-- The frame size of the last found header (R23). -/
  fsize : BitVec 12
  /-- `W`: the last fetched header word (R23). -/
  w : Word
  /-- `T`: the tag-probe bytes (R23). -/
  t : TagWord
  /-- 0: forward scan, 1: exact-offset scan (R24). -/
  exact : Bool
  /-- 1: the found frame must be followed by a second (R24). -/
  findsub : Bool
  /-- `HB.valid` (R24). -/
  hbValid : Bool
  /-- The candidate header record (R26). -/
  hc : HeaderRec
  /-- The baseline header record (R26). -/
  hb : HeaderRec
  phase : Phase
  busy : Bool
  done : Bool
  verdict : Bool
  /-- The read port (spec/20_memory.md R62). -/
  port : ReadPort
  /-- The byte source attached to the read port (spec/20_memory.md R50); the block never writes it (R61). -/
  src : Memory
  params : Params
  /-- Input (R25). The step that sees it consumes it: the host asserts it "for one step" (R186, log 2). -/
  start : Bool
  /-- Input, a level that only the environment changes (spec/70_reset_and_hazards.md R230, log 2). -/
  rst : Bool
  /-- MODEL'S own input: the source answers the request of this step (R62, R239, log 17). -/
  srcAnswers : Bool
  /-- MODEL'S own input: the code of one unit operation to exercise alone (D20, log 3). -/
  unitReq : Option Byte
  /-- MODEL'S own ghost: the result of the last unit operation exercised alone (log 16). -/
  unitResult : Option UnitResult
  /-- Ghost that R25 allows: the failure kind the last step produced (log 16). -/
  lastFailure : Option FailureKind
  /-- MODEL'S own ghost: reads made since the last start (R190, log 16). -/
  reads : Nat
  /-- MODEL'S own: index of the next free value (log 7). -/
  freeCount : Nat
  deriving DecidableEq, Repr

/-- DESIGN CHOICE (log 7), unsafe: the value of HC and HB in `State.reset`; spec/10_state.md R37 leaves the fields
"unspecified". -/
def zeroHeader : HeaderRec where
  version := 0
  lsf := false
  layer := 0
  hasCRC := false
  bitrateIndex := 0
  bitrateBps := 0
  sampleRateHz := 0
  paddingSize := 0
  samplesPerFrame := 0
  channelMode := 0
  modeExtension := 0
  emphasis := 0
  copyright := false
  privateBit := false
  original := false
  allocationTableIndex := none
  intensityStereoBound := none

/-- The machine right after reset (spec/10_state.md R37, spec/70_reset_and_hazards.md R230). DESIGN CHOICE: HC, HB
(log 7), an empty source (log 1), the inputs (logs 2, 3, 17), the port (log 19) and the ghosts (log 16). -/
def State.reset : State where
  pc := 0
  origin := 0
  n := 0
  stepReg := 1
  fsize := 0
  w := 0
  t := 0
  exact := false
  findsub := false
  hbValid := false
  hc := zeroHeader
  hb := zeroHeader
  phase := .idle
  busy := false
  done := false
  verdict := false
  port := ReadPort.idle
  src := { len := 0, cells := [] }
  params := Params.default
  start := false
  rst := false
  srcAnswers := true
  unitReq := none
  unitResult := none
  lastFailure := none
  reads := 0
  freeCount := 0

end Sys2Proof.Machine
end

