-- ==== Sys2Proof/Machine/Tables.lean ====
section
/-! DEFINITION. The constant tables of spec/10_state.md R30 to R36. COEFF and SLOT are printed by the source; the others
the spec supplies from general knowledge (log 15). -/

namespace Sys2Proof.Machine

/-- A row of BITRATE, entries 0 to 14 in kbit/s (R30). PRESUMED by the spec (log 15). -/
def bitrateRow (lsf : Bool) (li : BitVec 2) : List Nat :=
  match lsf, li.toNat with
  | false, 0 => [0, 32, 64, 96, 128, 160, 192, 224, 256, 288, 320, 352, 384, 416, 448]
  | false, 1 => [0, 32, 48, 56, 64, 80, 96, 112, 128, 160, 192, 224, 256, 320, 384]
  | false, 2 => [0, 32, 40, 48, 56, 64, 80, 96, 112, 128, 160, 192, 224, 256, 320]
  | true, 0 => [0, 32, 48, 56, 64, 80, 96, 112, 128, 144, 160, 176, 192, 224, 256]
  | true, 1 => [0, 8, 16, 24, 32, 40, 48, 56, 64, 80, 96, 112, 128, 144, 160]
  | true, 2 => [0, 8, 16, 24, 32, 40, 48, 56, 64, 80, 96, 112, 128, 144, 160]
  | _, _ => []

/-- `BITRATE[lsf][li][bi]` (R30); 0 where the table has no entry, which no rule reads (U12). -/
def bitrateTable (lsf : Bool) (li : BitVec 2) (bi : BitVec 4) : Nat :=
  (bitrateRow lsf li).getD bi.toNat 0

/-- `SAMPLERATE[v]` in Hz (R31); the Reserved row has no entries. PRESUMED by the spec (log 15). -/
def sampleRateRow (v : BitVec 2) : List Nat :=
  match v.toNat with
  | 0 => [11025, 12000, 8000]
  | 2 => [22050, 24000, 16000]
  | 3 => [44100, 48000, 32000]
  | _ => []

/-- `SAMPLERATE[v][si]` (R31); 0 where the table has no entry, which no rule reads (U11). -/
def sampleRateTable (v si : BitVec 2) : Nat :=
  (sampleRateRow v).getD si.toNat 0

/-- `SPF[lsf][li]` (R32). PRESUMED by the spec which cell holds which value (log 15). -/
def samplesTable (lsf : Bool) (li : BitVec 2) : Nat :=
  match lsf, li.toNat with
  | _, 0 => 384
  | _, 1 => 1152
  | false, 2 => 1152
  | true, 2 => 576
  | _, _ => 0

/-- `COEFF[lsf][li]` (R33). -/
def coeffTable (lsf : Bool) (li : BitVec 2) : Nat :=
  match lsf, li.toNat with
  | _, 0 => 12
  | _, 1 => 144
  | false, 2 => 144
  | true, 2 => 72
  | _, _ => 0

/-- `SLOT[li]` (R34). -/
def slotTable (li : BitVec 2) : Nat :=
  match li.toNat with
  | 0 => 4
  | 1 => 1
  | 2 => 1
  | _ => 0

/-- `ALLOWED[bi][mono]` (R35). PRESUMED by the spec (log 15). -/
def allowedTable (bi : BitVec 4) (mono : Bool) : Bool :=
  match bi.toNat with
  | 0 => true
  | 1 => mono
  | 2 => mono
  | 3 => mono
  | 4 => true
  | 5 => mono
  | 6 => true
  | 7 => true
  | 8 => true
  | 9 => true
  | 10 => true
  | 11 => !mono
  | 12 => !mono
  | 13 => !mono
  | 14 => !mono
  | _ => false

/-- `ALLOC(k, sr)` (R36), for the listed rates per channel and sample rates; `none` outside the table, which an allowed
combination never reaches. PRESUMED by the spec (log 15). -/
def allocTable (k sr : Nat) : Option (BitVec 3) :=
  if sr = 32000 then
    if k ∈ [32, 48] then some 3
    else if k ∈ [56, 64, 80] then some 0
    else if k ∈ [96, 112, 128, 160, 192] then some 1
    else none
  else if sr = 44100 then
    if k ∈ [32, 48] then some 2
    else if k ∈ [56, 64, 80] then some 0
    else if k ∈ [96, 112, 128, 160, 192] then some 1
    else none
  else if sr = 48000 then
    if k ∈ [32, 48] then some 2
    else if k ∈ [56, 64, 80] then some 0
    else if k ∈ [96, 112, 128, 160, 192] then some 0
    else none
  else none

end Sys2Proof.Machine
end

