-- ==== Sys2Proof/Machine/Operands.lean ====
section
/-! DEFINITION. Operand assembly: every value the units build from header fields, tag bytes and counters
(spec/30_encoding.md R81 to R83, spec/10_state.md R27, spec/45_sync_scanner.md R161). -/

namespace Sys2Proof.Machine

/-- `lsf` is 0 for MPEG1 (`v = 3`), 1 otherwise (R73, R102). -/
def lsfOf (v : BitVec 2) : Bool := v != 3

/-- `li = 3 - lr` (R74). -/
def layerIndex (lr : BitVec 2) : BitVec 2 := 3 - lr

/-- `isMono(h) = (h.channelMode == 3)` (R27). -/
def isMono (h : HeaderRec) : Bool := h.channelMode == 3

/-- `bitrateBps = 1000 * BITRATE[lsf][li][bi]` (R83, R106). -/
def bitrateBpsOf (v li : BitVec 2) (bi : BitVec 4) : Nat := 1000 * bitrateTable (lsfOf v) li bi

/-- `k = (bitrateBps div 1000) div (isMono ? 1 : 2)` (R36, R83). -/
def ratePerChannel (bps : Nat) (mono : Bool) : Nat := bps / 1000 / (if mono then 1 else 2)

/-- `some (4 + 4 * mx)` when `cm` is JointStereo (1), else none (R83, R109). -/
def intensityBound (cm mx : BitVec 2) : Option (BitVec 5) :=
  if cm = 1 then some (BitVec.ofNat 5 (4 + 4 * mx.toNat)) else none

/-- `allocationTableIndex`: MPEG1 Layer2 by the case table, MPEG2 and MPEG2.5 Layer2 the value 4, else absent (R112). -/
def allocIndex (v li : BitVec 2) (bps sr : Nat) (mono : Bool) : Option (BitVec 3) :=
  if li = 1 then
    if v = 3 then allocTable (ratePerChannel bps mono) sr else some 4
  else none

/-- The record that DECODE returns for a word with these fields (R83, R100). -/
def assembleHeader (v li : BitVec 2) (f : HdrFields) : HeaderRec where
  version := v
  lsf := lsfOf v
  layer := li
  hasCRC := f.prot == 0
  bitrateIndex := f.bitrate
  bitrateBps := BitVec.ofNat 19 (bitrateBpsOf v li f.bitrate)
  sampleRateHz := BitVec.ofNat 16 (sampleRateTable v f.srate)
  paddingSize := f.pad
  samplesPerFrame := BitVec.ofNat 11 (samplesTable (lsfOf v) li)
  channelMode := f.cmode
  modeExtension := f.mext
  emphasis := f.emph
  copyright := f.copy == 1
  privateBit := f.priv == 1
  original := f.orig == 1
  allocationTableIndex := allocIndex v li (bitrateBpsOf v li f.bitrate) (sampleRateTable v f.srate) (f.cmode == 3)
  intensityStereoBound := intensityBound f.cmode f.mext

/-- `N = (b6 << 21) | (b7 << 14) | (b8 << 7) | b9` on the full bytes, OR and no masking (R81, D14). -/
def syncsafe (b6 b7 b8 b9 : Byte) : Nat :=
  b6.toNat <<< 21 ||| b7.toNat <<< 14 ||| b8.toNat <<< 7 ||| b9.toNat

/-- The total tag length: `10 + N`, plus 10 with a footer (R82). -/
def tagLength (footer : Bool) (b6 b7 b8 b9 : Byte) : Nat :=
  Config.tagHeaderLen + syncsafe b6 b7 b8 b9 + (if footer then Config.tagFooterLen else 0)

/-- The tag length of a tag row's fields. -/
def tagFieldsLength (footer : Bool) (t : TagFields) : Nat :=
  tagLength footer t.b6 t.b7 t.b8 t.b9

/-- Where the exact-offset resync transfer starts: the cursor (`cumulative`) or the scan's origin (`absolute`) (R161). -/
def probeBase {α : Type} (mode : ProbeMode) (origin cursor : α) : α :=
  match mode with
  | .cumulative => cursor
  | .absolute => origin

/-- The exact-offset resync transfer: `step` odd adds, even subtracts (R155, R161). On integers, never truncating (R168). -/
def nextProbe (mode : ProbeMode) (origin cursor : Int) (step : Nat) : Int :=
  if step % 2 = 1 then probeBase mode origin cursor + step else probeBase mode origin cursor - step

end Sys2Proof.Machine
end

