-- ==== Sys2Proof/Machine/Flags.lean ====
section
/-! DEFINITION. The mode flags `exact`, `findsub`, `HB.valid` and the status outputs `busy`, `done`, `verdict`
(spec/10_state.md R24, R25). The block has no condition codes and no operation sets a flag as a side effect of
arithmetic (R24), so these transfers are all there is. -/

namespace Sys2Proof.Machine

/-- The flags of the first-frame scan, as a start sets them (spec/47_top_level.md R188, row IDLE). -/
def flagsFirstFrame (s : State) : State := { s with exact := false, findsub := true, hbValid := false }

/-- The flags of the second-frame scan, as the chain step sets them (spec/46_chain_verifier.md R177). -/
def flagsSecondFrame (s : State) : State := { s with exact := true, findsub := false, hbValid := true }

/-- `busy <- 1`, `done <- 0`, `verdict <- 0` (spec/47_top_level.md R186). -/
def statusStart (s : State) : State := { s with busy := true, done := false, verdict := false }

/-- The block "sets `verdict`, `done <- 1`, `busy <- 0` in the same step" (spec/47_top_level.md R186). -/
def statusFinish (v : Bool) (s : State) : State := { s with busy := false, done := true, verdict := v }

end Sys2Proof.Machine
end

