-- ==== Sys2Proof/Machine/Ops.lean ====
section
/-! DEFINITION. The operations over the byte source and the registers that the units and the sequencer share. The block
has no trap entry and no return (spec/60_exceptions.md R207, R208): a failure chooses the next sequencer row, and the one
operation for that is `failedAttempt` in Machine/Sequencer.lean, with `finishDetection` here for the failures that end the
run. -/

namespace Sys2Proof.Machine

/-! ### The byte source -/

/-- What an address below SRC_LEN that `cells` does not list reads as. The source is a sequence with a definite byte at
every address below SRC_LEN (spec/20_memory.md R50); this byte is a choice of representation (log 1). -/
def unlistedByte : Byte := 0

/-- The byte listed at an address, or the unlisted byte. -/
def lookupCell : List Host.Cell → Nat → Byte
  | [], _ => unlistedByte
  | (b, v) :: r, a => if b = a then v else lookupCell r a

/-- `SRC[a]`, for `a < SRC_LEN`. -/
def Memory.byteAt (m : Memory) (a : Nat) : Byte := lookupCell m.cells a

/-- One byte of the source as an observer reads it: none beyond the end (R50). -/
def Memory.readByte (m : Memory) (a : Nat) : Option Byte := if a < m.len then some (m.byteAt a) else none

/-- Addresses strictly rising from `lo`, below `hi`, and no entry equal to the unlisted byte. -/
def cellsWf (lo hi : Nat) : List Host.Cell → Bool
  | [] => true
  | (a, v) :: r => decide (lo ≤ a) && decide (a < hi) && v != unlistedByte && cellsWf (a + 1) hi r

/-- The canonical form: equal sources are equal data. -/
def Memory.wf (m : Memory) : Bool := cellsWf 0 m.len m.cells

/-- Put a byte into the list, keeping the order and dropping an entry that would equal the unlisted byte. -/
def setCell (a : Nat) (v : Byte) : List Host.Cell → List Host.Cell
  | [] => if v = unlistedByte then [] else [(a, v)]
  | (b, x) :: r =>
    if a < b then (if v = unlistedByte then (b, x) :: r else (a, v) :: (b, x) :: r)
    else if a = b then (if v = unlistedByte then r else (a, v) :: r)
    else (b, x) :: setCell a v r

/-- The environment's write of one byte (the block has none, R61); the source grows to hold the address. -/
def Memory.setByte (m : Memory) (a : Nat) (v : Byte) : Memory :=
  { len := max m.len (a + 1), cells := setCell a v m.cells }

/-- The environment's write of bytes at consecutive addresses. -/
def Memory.setBytes (m : Memory) (a : Nat) : List Byte → Memory
  | [] => m
  | v :: r => (m.setByte a v).setBytes (a + 1) r

/-- The answer of the source: `Bytes(...)` or `Short` (R52). -/
inductive ReadResult where
  | short
  | bytes (bs : List Byte)
  deriving DecidableEq, Repr

/-- The bytes at `n` consecutive addresses. -/
def Memory.slice (m : Memory) (a : Nat) : Nat → List Byte
  | 0 => []
  | n + 1 => m.byteAt a :: m.slice (a + 1) n

/-- `MemRead(addr, n)`: total and all-or-nothing (R52). -/
def memRead (m : Memory) (addr n : Nat) : ReadResult :=
  if addr + n ≤ m.len then .bytes (m.slice addr n) else .short

/-- `byte0 || byte1 || byte2 || byte3` (R8, R54). -/
def wordOfList (bs : List Byte) : Word :=
  match bs with
  | [b0, b1, b2, b3] => wordOfBytes b0 b1 b2 b3
  | _ => 0

/-- `t0 || t1 || ... || t9`, the byte read first most significant (spec/44_id3v2_skipper.md R145). -/
def tagOfList (bs : List Byte) : TagWord :=
  match bs with
  | [t0, t1, t2, t3, t4, t5, t6, t7, t8, t9] => t0 ++ t1 ++ t2 ++ t3 ++ t4 ++ t5 ++ t6 ++ t7 ++ t8 ++ t9
  | _ => 0

/-- The response to a 4-byte read (R62). -/
def wordResponse (r : ReadResult) : PortResponse :=
  match r with
  | .short => .short
  | .bytes bs => .word (wordOfList bs)

/-- The response to a 10-byte read (R62). -/
def tagResponse (r : ReadResult) : PortResponse :=
  match r with
  | .short => .short
  | .bytes bs => .tag (tagOfList bs)

/-- `W` after a 4-byte read: written when it is not Short (spec/10_state.md R23). -/
def wordLatched (r : ReadResult) (old : Word) : Word :=
  match r with
  | .short => old
  | .bytes bs => wordOfList bs

/-- `T` after a 10-byte read: written when it is not Short (spec/10_state.md R23). -/
def tagLatched (r : ReadResult) (old : TagWord) : TagWord :=
  match r with
  | .short => old
  | .bytes bs => tagOfList bs

/-- The read port after a 4-byte read at `a` (R62). -/
def wordPort (a : Offset) (r : ReadResult) : ReadPort where
  reqValid := true
  reqAddr := a
  reqLen := false
  rsp := wordResponse r

/-- The read port after a 10-byte read at `a` (R62). -/
def tagPort (a : Offset) (r : ReadResult) : ReadPort where
  reqValid := true
  reqAddr := a
  reqLen := true
  rsp := tagResponse r

/-! ### Reads that latch -/

/-- The 4-byte read at `pc`: `W` is written when it is not Short (spec/47_top_level.md R188). -/
def latchWord (r : ReadResult) (s : State) : State :=
  { s with w := wordLatched r s.w, port := wordPort s.pc r, reads := s.reads + 1 }

/-- The 10-byte read at `a`: `T` is written when it is not Short (spec/44_id3v2_skipper.md R145). -/
def latchTag (a : Offset) (r : ReadResult) (s : State) : State :=
  { s with t := tagLatched r s.t, port := tagPort a r, reads := s.reads + 1 }

/-! ### Inputs, reset and the ends of a detection -/

/-- The step has sampled the one-step inputs; a start not taken is not remembered
(spec/70_reset_and_hazards.md R237, log 2). -/
def consumeInputs (s : State) : State := { s with start := false, unitReq := none }

/-- A reading phase while the source does not answer: the request stands, nothing else changes
(spec/70_reset_and_hazards.md R239, U7, log 17). -/
def waitForSource (s : State) : State :=
  consumeInputs
    { s with
      port :=
        { reqValid := true
          reqAddr := if s.phase = .tag then 0 else s.pc
          reqLen := decide (s.phase = .tag)
          rsp := .none } }

/-- `rst = 1`: every register at its reset value, a read in flight discarded, HC and HB unspecified; the source, the
parameters and the levels of the environment are unaffected (spec/70_reset_and_hazards.md R230, log 7). -/
def applyReset (s : State) : State :=
  { State.reset with
    hc := Config.unspecifiedHeader s.freeCount
    hb := Config.unspecifiedHeader (s.freeCount + 1)
    freeCount := s.freeCount + 2
    src := s.src
    params := s.params
    rst := s.rst
    srcAnswers := s.srcAnswers }

/-- Row `IDLE`, `start = 1` (spec/47_top_level.md R188). -/
def startDetection (s : State) : State :=
  { flagsFirstFrame (statusStart s) with phase := .tag, lastFailure := none, reads := 0 }

/-- The transfers that end a detection: status, and phase IDLE (spec/47_top_level.md R188). The failure kind is the ghost
of R25. -/
def finishDetection (v : Bool) (k : Option FailureKind) (s : State) : State :=
  { statusFinish v s with phase := .idle, lastFailure := k }

/-- The entry of a forward scan at `off`, which resets both counters (spec/60_exceptions.md R212): the TAG row's transfers
after the read (R188), FINDFRAME's entry (R155). DEDUCED (log 25): the TAG row's `origin <- pc` takes the
new `pc`, the offset the scan starts at (R23, R155), not the value from before the step, which a detection never reads (R37,
R233). -/
def enterScan (off : Offset) (s : State) : State :=
  { s with pc := off, origin := off, n := 0, stepReg := 1 }

end Sys2Proof.Machine
end

