-- ==== Sys2Proof/Machine/HeaderDecoder.lean ====
section
/-! DEFINITION. The Header Decoder, operation DECODE (spec/41_header_decoder.md). -/

namespace Sys2Proof.Machine

/-- Leave a unit operation's result where an observer of the model finds it (log 16). -/
def reportUnit (r : UnitResult) (k : Option FailureKind) (s : State) : State :=
  { s with unitResult := some r, lastFailure := k }

/-- `DECODE(w)`, the thirteen steps in MP3D's order (R100 to R112). Bits 31:21 are not examined (R72). -/
def decodeWord (w : Word) : Except FailureKind HeaderRec :=
  let v := versionField w
  if v = 1 then .error .invalidHeader else
  let lr := layerField w
  if lr = 0 then .error .invalidHeader else
  let li := layerIndex lr
  let f := fieldsOfWord w
  if f.bitrate = 15 then .error .invalidHeader else
  if bitrateBpsOf v li f.bitrate = 0 then .error .invalidHeader else
  if f.srate = 3 then .error .invalidHeader else
  if f.emph = 2 then .error .invalidHeader else
  if li = 1 ∧ v = 3 ∧ allowedTable f.bitrate (f.cmode == 3) = false then .error .invalidHeader else
  .ok (assembleHeader v li f)

/-- The record is one that some header decodes to: "a header record exists only for a valid header" (spec/10_state.md
R26). Every field is the one R83 gives for the codes in the record. -/
def validRecord (h : HeaderRec) : Bool :=
  h.version != 1 && h.layer != 3 && h.bitrateIndex != 0 && h.bitrateIndex != 15 && h.emphasis != 2 &&
  h.lsf == lsfOf h.version &&
  h.bitrateBps == BitVec.ofNat 19 (bitrateBpsOf h.version h.layer h.bitrateIndex) &&
  (sampleRateRow h.version).any (fun r => h.sampleRateHz == BitVec.ofNat 16 r) &&
  h.samplesPerFrame == BitVec.ofNat 11 (samplesTable h.lsf h.layer) &&
  (!(h.layer == 1 && h.version == 3) || allowedTable h.bitrateIndex (isMono h)) &&
  h.allocationTableIndex == allocIndex h.version h.layer h.bitrateBps.toNat h.sampleRateHz.toNat (isMono h) &&
  h.intensityStereoBound == intensityBound h.channelMode h.modeExtension

/-- DECODE, uid 4: reads `W`, writes `HC` on success only (R100, spec/10_state.md R38). -/
def execDecode (s : State) : Host.Outcome State Fault Refusal :=
  match decodeWord s.w with
  | .ok h => .next (reportUnit (.header h) none { s with hc := h })
  | .error k => .next (reportUnit .invalidHeader (some k) s)

end Sys2Proof.Machine
end

