-- ==== Sys2Proof/Machine/FrameSize.lean ====
section
/-! DEFINITION. The Frame Size Calculator, operation FSIZE (spec/42_frame_size.md). -/

namespace Sys2Proof.Machine

/-- `( (COEFF * bitrateBps) div sampleRateHz + paddingSize ) * SLOT` (R131), exact in the naturals (R133). -/
def frameSizeFormula (h : HeaderRec) : Nat :=
  (coeffTable h.lsf h.layer * h.bitrateBps.toNat / h.sampleRateHz.toNat + h.paddingSize.toNat) * slotTable h.layer

/-- FSIZE: the formula on a valid header record, a free value on any other (R133, log 8). -/
def frameSize (h : HeaderRec) : Nat :=
  if validRecord h then frameSizeFormula h else (Config.fsizeOfInvalid h).toNat

/-- FSIZE, uid 5: reads `HC`, writes `fsize` (R130, spec/10_state.md R38). -/
def execFsize (s : State) : Host.Outcome State Fault Refusal :=
  .next (reportUnit (.size (frameSize s.hc)) none { s with fsize := BitVec.ofNat 12 (frameSize s.hc) })

end Sys2Proof.Machine
end

