-- ==== Sys2Proof/Machine/Compatibility.lean ====
section
/-! DEFINITION. The Header Compatibility Check, operation MATCH (spec/43_compatibility.md). -/

namespace Sys2Proof.Machine

/-- `MATCH(a, b)`: equality of version, layer, sampleRateHz, isMono and emphasis (R141). -/
def headersMatch (a b : HeaderRec) : Bool :=
  a.version == b.version && a.layer == b.layer && a.sampleRateHz == b.sampleRateHz && isMono a == isMono b &&
  a.emphasis == b.emphasis

/-- MATCH on two valid header records, a free value on any others (R140, log 9). -/
def matchResult (a b : HeaderRec) : Bool :=
  if validRecord a && validRecord b then headersMatch a b else Config.matchOfInvalid a b

/-- MATCH of the registers: `HC` and `HB` "with `HB.valid = 1`" (R140); a free value without a baseline (log 9). -/
def matchRegisters (s : State) : Bool :=
  if s.hbValid then matchResult s.hc s.hb else Config.matchOfInvalid s.hc s.hb

/-- MATCH, uid 6: reads `HC` and `HB`, writes nothing (R140, spec/10_state.md R38). -/
def execMatchHeaders (s : State) : Host.Outcome State Fault Refusal :=
  .next (reportUnit (.bit (matchRegisters s)) none s)

end Sys2Proof.Machine
end

