-- ==== Sys2Proof/Machine/TagSkipper.lean ====
section
/-! DEFINITION. The ID3v2 Tag Skipper, operation SKIPTAG, and the two tag rows (spec/44_id3v2_skipper.md). -/

namespace Sys2Proof.Machine

/-- `SKIPTAG(off)` from the answer of its one read: the pseudocode of R145. Unbounded: `off + 10 + N + 10`. -/
def skipTagResult (off : Nat) (r : ReadResult) : Nat :=
  match r with
  | .short => off
  | .bytes bs =>
    match bs with
    | [t0, t1, t2, _, _, t5, t6, t7, t8, t9] =>
      if t0 = 0x49 ∧ t1 = 0x44 ∧ t2 = 0x33 then
        off + Config.tagHeaderLen + syncsafe t6 t7 t8 t9 + (if t5 &&& 0x10 ≠ 0 then Config.tagFooterLen else 0)
      else off
    | _ => off

/-- `SKIPTAG(off)` as a function of the source (R145). -/
def skipTag (src : Memory) (off : Nat) : Nat := skipTagResult off (memRead src off 10)

/-- The failure kind a tag probe meets, folded into "no tag" (spec/60_exceptions.md R204). -/
def probeFailure (r : ReadResult) : Option FailureKind :=
  match r with
  | .short => some .sourceUnreadable
  | .bytes _ => none

/-- SKIPTAG, uid 1, alone: the operand is `pc`, the result goes to `pc` (low 32 bits) and `T` (R145, log 10). -/
def execSkiptag (s : State) : Host.Outcome State Fault Refusal :=
  let r := memRead s.src s.pc.toNat 10
  let off := skipTagResult s.pc.toNat r
  .next (reportUnit (.offset off) (probeFailure r) { latchTag s.pc r s with pc := BitVec.ofNat 32 off })

/-- The TAG row once the offset is known: `pc`, `origin`, `n`, `step`, and phase SCAN1 (spec/47_top_level.md R188). -/
def tagSkipped (off : Nat) (k : Option FailureKind) (s : State) : State :=
  { enterScan (BitVec.ofNat 32 off) s with phase := .scan1, lastFailure := k }

/-- A tag row: in phase TAG the TAG row of R188 with `SKIPTAG(0)` the tag's length. In another phase, where no step
fetches it, only `pc` takes the length (DESIGN CHOICE, log 6). -/
def tagRow (len : Nat) (s : State) : State :=
  match s.phase with
  | .tag => tagSkipped len none s
  | .idle | .scan1 | .scan2 => { s with pc := BitVec.ofNat 32 len, lastFailure := none }

/-- ID3V2_TAG_NO_FOOTER: `10 + N` (R146). -/
def execId3v2TagNoFooter (t : TagFields) (s : State) : Host.Outcome State Fault Refusal :=
  .next (tagRow (tagFieldsLength false t) s)

/-- ID3V2_TAG_FOOTER: `10 + N + 10` (R146, R150). -/
def execId3v2TagFooter (t : TagFields) (s : State) : Host.Outcome State Fault Refusal :=
  .next (tagRow (tagFieldsLength true t) s)

end Sys2Proof.Machine
end

