-- ==== Sys2Proof/Machine/SyncScanner.lean ====
section
/-! DEFINITION. The Sync Scanner, operation FINDFRAME, at the function level (spec/45_sync_scanner.md). The cursor is an
integer here, as R168 has it. -/

namespace Sys2Proof.Machine

/-- The candidate test: `byte0 == 0xFF`, `(byte1 & 0xE0) == 0xE0`, `(byte2 & 0xF0) != 0xF0` (R156). -/
def isCandidate (b0 b1 b2 : Byte) : Bool :=
  b0 == 0xFF && b1 &&& 0xE0 == 0xE0 && b2 &&& 0xF0 != 0xF0

/-- One attempt (R157), before any comparison with a baseline. -/
inductive Attempt where
  /-- A negative offset: a failed attempt that makes no read (R168). -/
  | noRead
  /-- A Short read. -/
  | short
  /-- Read, but not a candidate. -/
  | notCandidate (w : Word)
  /-- A candidate that does not decode. -/
  | invalid (w : Word)
  /-- A candidate that decodes. -/
  | hit (w : Word) (h : HeaderRec)
  deriving DecidableEq, Repr

/-- The tests of an attempt on the answer of its read (R157). -/
def attemptOn (r : ReadResult) : Attempt :=
  match r with
  | .short => .short
  | .bytes bs =>
    match bs with
    | [b0, b1, b2, b3] =>
      let w := wordOfBytes b0 b1 b2 b3
      if isCandidate b0 b1 b2 then
        match decodeWord w with
        | .ok h => .hit w h
        | .error _ => .invalid w
      else .notCandidate w
    | _ => .short

/-- `attempt(pc)` at an integer offset (R157, R168). -/
def attemptAt (src : Memory) (c : Int) : Attempt :=
  if c < 0 then .noRead else attemptOn (memRead src c.toNat 4)

/-- What a scan leaves: the registers it writes, the last port activity and the number of reads. -/
structure ScanRun where
  cursor : Int
  origin : Int
  n : Nat
  step : Nat
  /-- The last word fetched, if any. -/
  w : Option Word
  /-- The last header decoded, if any. -/
  hc : Option HeaderRec
  port : ReadPort
  reads : Nat
  deriving DecidableEq, Repr

/-- FINDFRAME's entry: `pc <- off ; origin <- off ; n <- 0 ; step <- 1` (R155). -/
def ScanRun.enter (off : Int) : ScanRun where
  cursor := off
  origin := off
  n := 0
  step := 1
  w := none
  hc := none
  port := ReadPort.idle
  reads := 0

/-- What one attempt leaves in the registers, whatever its outcome. DESIGN CHOICE (log 24): for a cursor at 2^32 or above,
which only a unit run alone reaches, the port shows the low 32 bits (R51) while the source has answered at the whole
integer. -/
def ScanRun.record (a : Attempt) (r : ScanRun) : ScanRun :=
  let addr := BitVec.ofInt 32 r.cursor
  match a with
  | .noRead => { r with port := ReadPort.idle }
  | .short =>
    { r with port := { reqValid := true, reqAddr := addr, reqLen := false, rsp := .short }, reads := r.reads + 1 }
  | .notCandidate w | .invalid w =>
    { r with
      w := some w
      port := { reqValid := true, reqAddr := addr, reqLen := false, rsp := .word w }, reads := r.reads + 1 }
  | .hit w h =>
    { r with
      w := some w, hc := some h
      port := { reqValid := true, reqAddr := addr, reqLen := false, rsp := .word w }, reads := r.reads + 1 }

/-- `Found(h, p)` or `NotFound(K)` (R155). -/
abbrev ScanResult := Except FailureKind (HeaderRec × Int)

/-- A Short read ends an exact-offset scan at once under `EOS_POLICY = stop_at_once` only (R162). -/
def stopsAtShort (p : Params) (a : Attempt) : Bool := a == .short && p.eosPolicy == .stopAtOnce

/-- The loop of R155. `fuel` bounds the recursion; with `scanFuel` it never runs out before the scan's own bounds. -/
def scanLoop (p : Params) (src : Memory) (exact : Bool) (base : Option HeaderRec) : Nat → ScanRun → ScanResult × ScanRun
  | 0, r => (.error .scanExhausted, r)
  | fuel + 1, r =>
    let a := attemptAt src r.cursor
    let r := r.record a
    match a with
    | .hit _ h =>
      match base with
      | none => (.ok (h, r.cursor), r)
      | some hb => if matchResult h hb then (.ok (h, r.cursor), r) else (.error .chainMismatch, r)
    | _ =>
      if exact then
        if stopsAtShort p a || decide (Config.exactTolerance < r.step) then (.error .scanExhausted, r)
        else
          scanLoop p src exact base fuel
            { r with cursor := nextProbe p.probeMode r.origin r.cursor r.step, step := r.step + 1 }
      else if Config.maxScanRange ≤ r.n + 1 then (.error .scanExhausted, { r with n := r.n + 1 })
      else scanLoop p src exact base fuel { r with n := r.n + 1, cursor := r.cursor + 1 }

/-- More iterations than either policy can make (R165). -/
def scanFuel : Nat := Config.maxScanRange + Config.exactTolerance + 1

/-- One call of FINDFRAME with everything it leaves. -/
def scanRun (p : Params) (src : Memory) (off : Int) (exact : Bool) (base : Option HeaderRec) : ScanResult × ScanRun :=
  scanLoop p src exact base scanFuel (ScanRun.enter off)

/-- `FINDFRAME(off, exact, base)`, the result alone (R155). -/
def findFrame (p : Params) (src : Memory) (off : Int) (exact : Bool) (base : Option HeaderRec) : ScanResult :=
  (scanRun p src off exact base).1

/-- The failure kind of a result, if it is one. -/
def scanFailure (r : ScanResult) : Option FailureKind :=
  match r with
  | .ok _ => none
  | .error k => some k

/-- The result in the ghost's constructors. -/
def scanReport (r : ScanResult) : UnitResult :=
  match r with
  | .ok (h, p) => .found h p
  | .error k => .notFound k

/-- Write a scan's registers back, all but `n` (spec/10_state.md R38): `pc` and `origin` take the low 32 bits. -/
def writeScan (r : ScanRun) (s : State) : State :=
  { s with
    pc := BitVec.ofInt 32 r.cursor
    origin := BitVec.ofInt 32 r.origin
    stepReg := BitVec.ofNat 3 r.step
    w := r.w.getD s.w
    hc := r.hc.getD s.hc
    port := r.port
    reads := s.reads + r.reads }

/-- The baseline operand: `HB` when `HB.valid` (R155). -/
def baseline (s : State) : Option HeaderRec := if s.hbValid then some s.hb else none

/-- FINDFRAME on the registers: the operands are `pc`, `exact` and the baseline (log 11). -/
def findFrameOnState (s : State) : ScanResult × State :=
  let x := scanRun s.params s.src s.pc.toNat s.exact (baseline s)
  (x.1, { writeScan x.2 s with n := BitVec.ofNat 15 x.2.n })

/-- FINDFRAME, uid 2 (R155). -/
def execFindframe (s : State) : Host.Outcome State Fault Refusal :=
  .next (reportUnit (scanReport (findFrameOnState s).1) (scanFailure (findFrameOnState s).1) (findFrameOnState s).2)

end Sys2Proof.Machine
end

