-- ==== Sys2Proof/Machine/ChainVerifier.lean ====
section
/-! DEFINITION. The Chain Verifier, operation VERIFY, at the function level (spec/46_chain_verifier.md). -/

namespace Sys2Proof.Machine

/-- `VERIFY(off, findsub, exact, cmp)` (R175), one level of recursion (R179): the leaf first. -/
def verifyLeaf (p : Params) (src : Memory) (off : Int) (exact : Bool) (cmp : Option HeaderRec) : Bool :=
  match findFrame p src off exact cmp with
  | .ok _ => true
  | .error _ => false

/-- `VERIFY(off, findsub, exact, cmp)` (R175). -/
def verifyChain (p : Params) (src : Memory) (off : Int) (findsub exact : Bool) (cmp : Option HeaderRec) : Bool :=
  match findFrame p src off exact cmp with
  | .error _ => false
  | .ok (h, at_) => if findsub then verifyLeaf p src (at_ + frameSize h) true (some h) else true

/-- The chain step: `HB <- HC`, `HB.valid <- 1`, `pc <- pc + fsize`, `origin <- pc + fsize`, `exact <- 1`,
`findsub <- 0`, `step <- 1` (R177, R188). No transfer of `n` is among them (log 12). -/
def chainStep (h : HeaderRec) (next : Offset) (s : State) : State :=
  { flagsSecondFrame s with hb := h, pc := next, origin := next, stepReg := 1 }

/-- The inner call on the registers: FINDFRAME, exact, from `next` with the baseline `h`, its entry `n <- 0` included (R155,
spec/60_exceptions.md R212); its found frame's size goes to `fsize` (R180). -/
def verifyInner (h : HeaderRec) (next : Int) (s : State) : ScanResult × State :=
  let x := scanRun s.params s.src next true (some h)
  let s' := { writeScan x.2 s with n := BitVec.ofNat 15 x.2.n }
  match x.1 with
  | .error k => (.error k, s')
  | .ok (h2, p2) => (.ok (h2, p2), { s' with fsize := BitVec.ofNat 12 (frameSize h2) })

/-- VERIFY on the registers: the operands are `pc`, `findsub`, `exact` and the baseline (log 11). The result is the one
that decides the bit: the inner call's where there is one. -/
def verifyOnState (s : State) : ScanResult × State :=
  match (findFrameOnState s).1 with
  | .error k => (.error k, (findFrameOnState s).2)
  | .ok (h, p) =>
    let s2 := { (findFrameOnState s).2 with fsize := BitVec.ofNat 12 (frameSize h) }
    if s.findsub then
      verifyInner h (p + frameSize h) (chainStep h (BitVec.ofInt 32 (p + frameSize h)) s2)
    else (.ok (h, p), s2)

/-- Success of the lookup is the bit (R176, R178). -/
def scanFound (r : ScanResult) : Bool :=
  match r with
  | .ok _ => true
  | .error _ => false

/-- VERIFY, uid 3 (R175). -/
def execVerify (s : State) : Host.Outcome State Fault Refusal :=
  .next
    (reportUnit (.bit (scanFound (verifyOnState s).1)) (scanFailure (verifyOnState s).1) (verifyOnState s).2)

end Sys2Proof.Machine
end

