-- ==== Sys2Proof/Machine/Sequencer.lean ====
section
/-! DEFINITION. The rows of the sequencer's table after a read has answered (spec/47_top_level.md R188). Which row runs is
decided by `phase`, as in the table. -/

namespace Sys2Proof.Machine

/-- A forward attempt that failed: rows SCAN1, Miss. -/
def forwardMiss (k : Option FailureKind) (s : State) : State :=
  if Config.maxScanRange ≤ s.n.toNat + 1 then
    finishDetection false (some .scanExhausted) { s with n := s.n + 1 }
  else { s with n := s.n + 1, pc := s.pc + 1, lastFailure := k }

/-- The exact-offset scan ends with this failed attempt: `step > 6`, or a Short read under `stop_at_once` (R162). -/
def exactScanEnds (k : Option FailureKind) (s : State) : Bool :=
  decide (Config.exactTolerance < s.stepReg.toNat) ||
    (k == some .sourceUnreadable && s.params.eosPolicy == .stopAtOnce)

/-- An exact-offset attempt that failed: rows SCAN2, Miss. -/
def exactMiss (k : Option FailureKind) (s : State) : State :=
  if exactScanEnds k s then finishDetection false (some .scanExhausted) s
  else
    { s with
      pc := BitVec.ofInt 32 (nextProbe s.params.probeMode s.origin.toNat s.pc.toNat s.stepReg.toNat)
      stepReg := s.stepReg + 1
      lastFailure := k }

/-- THE ONE OPERATION A FAILURE TAKES (spec/60_exceptions.md R207): "Its whole effect is the choice of the next row of the
sequencer table". Outside a scan, where no step fetches a header row, only the ghost changes (DESIGN CHOICE, log 6). -/
def failedAttempt (k : Option FailureKind) (s : State) : State :=
  match s.phase with
  | .scan1 => forwardMiss k s
  | .scan2 => exactMiss k s
  | .idle | .tag => { s with lastFailure := k }

/-- The first frame is found: row SCAN1, Hit. -/
def firstHit (h : HeaderRec) (s : State) : State :=
  { chainStep h (s.pc + BitVec.ofNat 32 (frameSize h))
      { s with hc := h, fsize := BitVec.ofNat 12 (frameSize h) } with
    phase := .scan2
    lastFailure := none }

/-- The second header is found: rows SCAN2, Hit. A mismatch is a hard stop (spec/45_sync_scanner.md R158). -/
def secondHit (h : HeaderRec) (s : State) : State :=
  if matchResult h s.hb then
    finishDetection true none { s with hc := h, fsize := BitVec.ofNat 12 (frameSize h) }
  else finishDetection false (some .chainMismatch) { s with hc := h }

/-- A candidate decoded. Outside a scan, where no step fetches a header row, only DECODE's effect on `HC` remains (DESIGN
CHOICE, log 6). -/
def headerHit (h : HeaderRec) (s : State) : State :=
  match s.phase with
  | .scan1 => firstHit h s
  | .scan2 => secondHit h s
  | .idle | .tag => { s with hc := h, lastFailure := none }

end Sys2Proof.Machine
end

