-- ==== Sys2Proof/Machine/HeaderRows.lean ====
section
/-! DEFINITION. The thirty-one header rows: nine valid classes (spec/41_header_decoder.md R100) and twenty-two reject
patterns (spec/30_encoding.md R84, R85). Each is the sequencer's Hit or Miss row for the word it stands for. -/

namespace Sys2Proof.Machine

/-- MPEG1 Layer1: version code 3, layer code 3, layer index 0. -/
def execHdrMpeg1L1 (f : HdrFields) (s : State) : Host.Outcome State Fault Refusal :=
  .next (headerHit (assembleHeader 3 0 f) s)

/-- MPEG1 Layer2: version code 3, layer code 2, layer index 1. -/
def execHdrMpeg1L2 (f : HdrFields) (s : State) : Host.Outcome State Fault Refusal :=
  .next (headerHit (assembleHeader 3 1 f) s)

/-- MPEG1 Layer3: version code 3, layer code 1, layer index 2. -/
def execHdrMpeg1L3 (f : HdrFields) (s : State) : Host.Outcome State Fault Refusal :=
  .next (headerHit (assembleHeader 3 2 f) s)

/-- MPEG2 Layer1: version code 2, layer code 3, layer index 0. -/
def execHdrMpeg2L1 (f : HdrFields) (s : State) : Host.Outcome State Fault Refusal :=
  .next (headerHit (assembleHeader 2 0 f) s)

/-- MPEG2 Layer2: version code 2, layer code 2, layer index 1. -/
def execHdrMpeg2L2 (f : HdrFields) (s : State) : Host.Outcome State Fault Refusal :=
  .next (headerHit (assembleHeader 2 1 f) s)

/-- MPEG2 Layer3: version code 2, layer code 1, layer index 2. -/
def execHdrMpeg2L3 (f : HdrFields) (s : State) : Host.Outcome State Fault Refusal :=
  .next (headerHit (assembleHeader 2 2 f) s)

/-- MPEG2.5 Layer1: version code 0, layer code 3, layer index 0. -/
def execHdrMpeg25L1 (f : HdrFields) (s : State) : Host.Outcome State Fault Refusal :=
  .next (headerHit (assembleHeader 0 0 f) s)

/-- MPEG2.5 Layer2: version code 0, layer code 2, layer index 1. -/
def execHdrMpeg25L2 (f : HdrFields) (s : State) : Host.Outcome State Fault Refusal :=
  .next (headerHit (assembleHeader 0 1 f) s)

/-- MPEG2.5 Layer3: version code 0, layer code 1, layer index 2. -/
def execHdrMpeg25L3 (f : HdrFields) (s : State) : Host.Outcome State Fault Refusal :=
  .next (headerHit (assembleHeader 0 2 f) s)

/-- InvalidHeader at step 1, `v = 1` (R101). -/
def execHdrRejectVersionReserved (_lr : BitVec 2) (_f : HdrFields) (s : State) :
    Host.Outcome State Fault Refusal :=
  .next (failedAttempt (some .invalidHeader) s)

/-- InvalidHeader at step 3, `lr = 0` (R103). -/
def execHdrRejectLayerReserved (_v : BitVec 2) (_f : HdrFields) (s : State) :
    Host.Outcome State Fault Refusal :=
  .next (failedAttempt (some .invalidHeader) s)

/-- Index 15 is no candidate: the attempt fails with no failure kind, nothing is decoded (R84 class 2, R156). -/
def execHdrRejectBitrateIndex15 (_v _lr : BitVec 2) (_f : HdrFields) (s : State) :
    Host.Outcome State Fault Refusal :=
  .next (failedAttempt none s)

/-- InvalidHeader at step 5, table entry 0 (R106). -/
def execHdrRejectBitrateIndex0 (_v _lr : BitVec 2) (_f : HdrFields) (s : State) :
    Host.Outcome State Fault Refusal :=
  .next (failedAttempt (some .invalidHeader) s)

/-- InvalidHeader at step 6, `si = 3` (R107). -/
def execHdrRejectSamplerateIndex3 (_v _lr : BitVec 2) (_f : HdrFields) (s : State) :
    Host.Outcome State Fault Refusal :=
  .next (failedAttempt (some .invalidHeader) s)

/-- InvalidHeader at step 12, `em = 2` (R111). -/
def execHdrRejectEmphasisReserved (_v _lr : BitVec 2) (_f : HdrFields) (s : State) :
    Host.Outcome State Fault Refusal :=
  .next (failedAttempt (some .invalidHeader) s)

/-- InvalidHeader at step 13, ALLOWED[1][0] = 0, channel mode 0 (R112). -/
def execHdrRejectM1l2Bi1Cm0 (_f : HdrFields) (s : State) : Host.Outcome State Fault Refusal :=
  .next (failedAttempt (some .invalidHeader) s)

/-- InvalidHeader at step 13, ALLOWED[1][0] = 0, channel mode 1 (R112). -/
def execHdrRejectM1l2Bi1Cm1 (_f : HdrFields) (s : State) : Host.Outcome State Fault Refusal :=
  .next (failedAttempt (some .invalidHeader) s)

/-- InvalidHeader at step 13, ALLOWED[1][0] = 0, channel mode 2 (R112). -/
def execHdrRejectM1l2Bi1Cm2 (_f : HdrFields) (s : State) : Host.Outcome State Fault Refusal :=
  .next (failedAttempt (some .invalidHeader) s)

/-- InvalidHeader at step 13, ALLOWED[2][0] = 0, channel mode 0 (R112). -/
def execHdrRejectM1l2Bi2Cm0 (_f : HdrFields) (s : State) : Host.Outcome State Fault Refusal :=
  .next (failedAttempt (some .invalidHeader) s)

/-- InvalidHeader at step 13, ALLOWED[2][0] = 0, channel mode 1 (R112). -/
def execHdrRejectM1l2Bi2Cm1 (_f : HdrFields) (s : State) : Host.Outcome State Fault Refusal :=
  .next (failedAttempt (some .invalidHeader) s)

/-- InvalidHeader at step 13, ALLOWED[2][0] = 0, channel mode 2 (R112). -/
def execHdrRejectM1l2Bi2Cm2 (_f : HdrFields) (s : State) : Host.Outcome State Fault Refusal :=
  .next (failedAttempt (some .invalidHeader) s)

/-- InvalidHeader at step 13, ALLOWED[3][0] = 0, channel mode 0 (R112). -/
def execHdrRejectM1l2Bi3Cm0 (_f : HdrFields) (s : State) : Host.Outcome State Fault Refusal :=
  .next (failedAttempt (some .invalidHeader) s)

/-- InvalidHeader at step 13, ALLOWED[3][0] = 0, channel mode 1 (R112). -/
def execHdrRejectM1l2Bi3Cm1 (_f : HdrFields) (s : State) : Host.Outcome State Fault Refusal :=
  .next (failedAttempt (some .invalidHeader) s)

/-- InvalidHeader at step 13, ALLOWED[3][0] = 0, channel mode 2 (R112). -/
def execHdrRejectM1l2Bi3Cm2 (_f : HdrFields) (s : State) : Host.Outcome State Fault Refusal :=
  .next (failedAttempt (some .invalidHeader) s)

/-- InvalidHeader at step 13, ALLOWED[5][0] = 0, channel mode 0 (R112). -/
def execHdrRejectM1l2Bi5Cm0 (_f : HdrFields) (s : State) : Host.Outcome State Fault Refusal :=
  .next (failedAttempt (some .invalidHeader) s)

/-- InvalidHeader at step 13, ALLOWED[5][0] = 0, channel mode 1 (R112). -/
def execHdrRejectM1l2Bi5Cm1 (_f : HdrFields) (s : State) : Host.Outcome State Fault Refusal :=
  .next (failedAttempt (some .invalidHeader) s)

/-- InvalidHeader at step 13, ALLOWED[5][0] = 0, channel mode 2 (R112). -/
def execHdrRejectM1l2Bi5Cm2 (_f : HdrFields) (s : State) : Host.Outcome State Fault Refusal :=
  .next (failedAttempt (some .invalidHeader) s)

/-- InvalidHeader at step 13, ALLOWED[11][1] = 0, mono (R112). -/
def execHdrRejectM1l2Bi11Mono (_f : HdrFields) (s : State) : Host.Outcome State Fault Refusal :=
  .next (failedAttempt (some .invalidHeader) s)

/-- InvalidHeader at step 13, ALLOWED[12][1] = 0, mono (R112). -/
def execHdrRejectM1l2Bi12Mono (_f : HdrFields) (s : State) : Host.Outcome State Fault Refusal :=
  .next (failedAttempt (some .invalidHeader) s)

/-- InvalidHeader at step 13, ALLOWED[13][1] = 0, mono (R112). -/
def execHdrRejectM1l2Bi13Mono (_f : HdrFields) (s : State) : Host.Outcome State Fault Refusal :=
  .next (failedAttempt (some .invalidHeader) s)

/-- InvalidHeader at step 13, ALLOWED[14][1] = 0, mono (R112). -/
def execHdrRejectM1l2Bi14Mono (_f : HdrFields) (s : State) : Host.Outcome State Fault Refusal :=
  .next (failedAttempt (some .invalidHeader) s)

end Sys2Proof.Machine
end

