-- ==== Sys2Proof/Machine/TopLevel.lean ====
section
/-! DEFINITION. Top-Level Detection, operation DETECT, at the function level (spec/47_top_level.md R185). The sequencer's
own account of a detection is Machine/Sequencer.lean and Machine/Step.lean; the two must agree (R189). -/

namespace Sys2Proof.Machine

/-- `DETECT()`: `s <- SKIPTAG(0); return VERIFY(s, 1, 0, none)` (R185). -/
def detectVerdict (p : Params) (src : Memory) : Bool :=
  verifyChain p src (skipTag src 0) true false none

/-- A whole detection on the registers: start, SKIPTAG(0), entry of the forward scan, VERIFY, and the end of R186. `n` is
the forward scan's count, as in the sequencer, whose chain step does not write it (R188; spec/95_test_vectors.md P8 ends
with `n = 10`). R212's reset of both counters is `tagSkipped`'s (log 12, DEDUCED). -/
def detectOnState (s : State) : ScanResult × State :=
  let r := memRead s.src 0 10
  let s1 := tagSkipped (skipTagResult 0 r) (probeFailure r) (latchTag 0 r (startDetection s))
  let x := verifyOnState s1
  (x.1, finishDetection (scanFound x.1) (scanFailure x.1) { x.2 with n := (findFrameOnState s1).2.n })

/-- DETECT, uid 0, run to its verdict (R185). "The block samples `start` only in `IDLE`": in another phase the request is
ignored (spec/70_reset_and_hazards.md R237). -/
def execDetect (s : State) : Host.Outcome State Fault Refusal :=
  match s.phase with
  | .idle =>
    .next
      (reportUnit (.bit (scanFound (detectOnState s).1)) (scanFailure (detectOnState s).1) (detectOnState s).2)
  | .tag | .scan1 | .scan2 => .next s

end Sys2Proof.Machine
end

