-- ==== Sys2Proof/Machine/Dispatch.lean ====
section
/-! DEFINITION. One arm per constructor of Instr: one direct call of its meaning. -/

namespace Sys2Proof.Machine

def exec (i : Instr) (s : State) : Host.Outcome State Fault Refusal :=
  match i with
  | .hdrMpeg1L1 f => Sys2Proof.Machine.execHdrMpeg1L1 f s
  | .hdrMpeg1L2 f => Sys2Proof.Machine.execHdrMpeg1L2 f s
  | .hdrMpeg1L3 f => Sys2Proof.Machine.execHdrMpeg1L3 f s
  | .hdrMpeg2L1 f => Sys2Proof.Machine.execHdrMpeg2L1 f s
  | .hdrMpeg2L2 f => Sys2Proof.Machine.execHdrMpeg2L2 f s
  | .hdrMpeg2L3 f => Sys2Proof.Machine.execHdrMpeg2L3 f s
  | .hdrMpeg25L1 f => Sys2Proof.Machine.execHdrMpeg25L1 f s
  | .hdrMpeg25L2 f => Sys2Proof.Machine.execHdrMpeg25L2 f s
  | .hdrMpeg25L3 f => Sys2Proof.Machine.execHdrMpeg25L3 f s
  | .hdrRejectVersionReserved lr f => Sys2Proof.Machine.execHdrRejectVersionReserved lr f s
  | .hdrRejectLayerReserved v f => Sys2Proof.Machine.execHdrRejectLayerReserved v f s
  | .hdrRejectBitrateIndex15 v lr f => Sys2Proof.Machine.execHdrRejectBitrateIndex15 v lr f s
  | .hdrRejectBitrateIndex0 v lr f => Sys2Proof.Machine.execHdrRejectBitrateIndex0 v lr f s
  | .hdrRejectSamplerateIndex3 v lr f => Sys2Proof.Machine.execHdrRejectSamplerateIndex3 v lr f s
  | .hdrRejectEmphasisReserved v lr f => Sys2Proof.Machine.execHdrRejectEmphasisReserved v lr f s
  | .hdrRejectM1l2Bi1Cm0 f => Sys2Proof.Machine.execHdrRejectM1l2Bi1Cm0 f s
  | .hdrRejectM1l2Bi1Cm1 f => Sys2Proof.Machine.execHdrRejectM1l2Bi1Cm1 f s
  | .hdrRejectM1l2Bi1Cm2 f => Sys2Proof.Machine.execHdrRejectM1l2Bi1Cm2 f s
  | .hdrRejectM1l2Bi2Cm0 f => Sys2Proof.Machine.execHdrRejectM1l2Bi2Cm0 f s
  | .hdrRejectM1l2Bi2Cm1 f => Sys2Proof.Machine.execHdrRejectM1l2Bi2Cm1 f s
  | .hdrRejectM1l2Bi2Cm2 f => Sys2Proof.Machine.execHdrRejectM1l2Bi2Cm2 f s
  | .hdrRejectM1l2Bi3Cm0 f => Sys2Proof.Machine.execHdrRejectM1l2Bi3Cm0 f s
  | .hdrRejectM1l2Bi3Cm1 f => Sys2Proof.Machine.execHdrRejectM1l2Bi3Cm1 f s
  | .hdrRejectM1l2Bi3Cm2 f => Sys2Proof.Machine.execHdrRejectM1l2Bi3Cm2 f s
  | .hdrRejectM1l2Bi5Cm0 f => Sys2Proof.Machine.execHdrRejectM1l2Bi5Cm0 f s
  | .hdrRejectM1l2Bi5Cm1 f => Sys2Proof.Machine.execHdrRejectM1l2Bi5Cm1 f s
  | .hdrRejectM1l2Bi5Cm2 f => Sys2Proof.Machine.execHdrRejectM1l2Bi5Cm2 f s
  | .hdrRejectM1l2Bi11Mono f => Sys2Proof.Machine.execHdrRejectM1l2Bi11Mono f s
  | .hdrRejectM1l2Bi12Mono f => Sys2Proof.Machine.execHdrRejectM1l2Bi12Mono f s
  | .hdrRejectM1l2Bi13Mono f => Sys2Proof.Machine.execHdrRejectM1l2Bi13Mono f s
  | .hdrRejectM1l2Bi14Mono f => Sys2Proof.Machine.execHdrRejectM1l2Bi14Mono f s
  | .id3v2TagNoFooter t => Sys2Proof.Machine.execId3v2TagNoFooter t s
  | .id3v2TagFooter t => Sys2Proof.Machine.execId3v2TagFooter t s
  | .detect => Sys2Proof.Machine.execDetect s
  | .skiptag => Sys2Proof.Machine.execSkiptag s
  | .findframe => Sys2Proof.Machine.execFindframe s
  | .verify => Sys2Proof.Machine.execVerify s
  | .decode => Sys2Proof.Machine.execDecode s
  | .fsize => Sys2Proof.Machine.execFsize s
  | .matchHeaders => Sys2Proof.Machine.execMatchHeaders s

end Sys2Proof.Machine
end

