-- ==== Sys2Proof/Machine/Step.lean ====
section
/-! DEFINITION. One step of the block: the inputs, the fetch of the phase, and exec of the row the fetched bytes decode to
(spec/47_top_level.md R188, spec/20_memory.md R62). -/

namespace Sys2Proof.Machine

/-- Phase TAG: the one read of 10 bytes at offset 0, then the tag row it decodes to; no signature and Short are "no tag"
(R147, R148). -/
def stepTag (s : State) : Host.Outcome State Fault Refusal :=
  let r := memRead s.src 0 10
  let s' := latchTag 0 r (consumeInputs s)
  match r with
  | .short => .next (tagSkipped 0 (probeFailure r) s')
  | .bytes bs =>
    match decode .id3v2Hdr80 bs with
    | .ok i => exec i s'
    | .error _ => .next (tagSkipped 0 (probeFailure r) s')

/-- Phases SCAN1 and SCAN2: the one read of 4 bytes at `pc`, then the header row it decodes to; a word with no sync and a
Short read are failed attempts (R84, R162). -/
def stepScan (s : State) : Host.Outcome State Fault Refusal :=
  let r := memRead s.src s.pc.toNat 4
  let s' := latchWord r (consumeInputs s)
  match r with
  | .short => .next (failedAttempt (some .sourceUnreadable) s')
  | .bytes bs =>
    match decode .mpegHdr32 bs with
    | .ok i => exec i s'
    | .error _ => .next (failedAttempt none s')

/-- Phase IDLE: `start` begins a detection (R186); else a unit request runs one unit operation alone (log 3); else
nothing. -/
def stepIdle (s : State) : Host.Outcome State Fault Refusal :=
  if s.start then .next (startDetection (consumeInputs s))
  else
    match s.unitReq with
    | none => .next (consumeInputs s)
    | some b =>
      match decode .unitOp [b] with
      | .ok i => exec i (consumeInputs s)
      | .error _ => .refused (.unassignedUnit b)

/-- One step. `rst` before everything (spec/70_reset_and_hazards.md R230); a reading phase waits for a source that does not
answer (R239). -/
def step (s : State) : Host.Outcome State Fault Refusal :=
  if s.rst then .next (applyReset s)
  else
    match s.phase with
    | .idle => stepIdle s
    | .tag => if s.srcAnswers then stepTag s else .next (waitForSource s)
    | .scan1 | .scan2 => if s.srcAnswers then stepScan s else .next (waitForSource s)

/-- Put the block into the forward scan, where the next step fetches a header word at `pc`, unless it is in a scan. -/
def toScan (s : State) : State :=
  match s.phase with
  | .scan1 | .scan2 => s
  | .idle | .tag => { flagsFirstFrame (statusStart s) with phase := .scan1 }

/-- Store an instruction where the next step fetches it (log 20): a header word at `pc` in a scan phase, ten tag bytes at 0
in phase TAG, a unit code in `unitReq` in phase IDLE. -/
def State.withFetchWord (s : State) (nbits w : Nat) : State :=
  let fmt := tableFormat nbits
  let bytes := bytesOfNat fmt.bytes w
  match fmt with
  | .mpegHdr32 =>
    let s' := toScan s
    { s' with src := s'.src.setBytes s'.pc.toNat bytes, rst := false, srcAnswers := true }
  | .id3v2Hdr80 =>
    { flagsFirstFrame (statusStart s) with
      phase := .tag, src := s.src.setBytes 0 bytes, rst := false, srcAnswers := true }
  | .unitOp =>
    { s with phase := .idle, busy := false, start := false, unitReq := some (BitVec.ofNat 8 w), rst := false }

end Sys2Proof.Machine
end

