-- ==== Sys2Proof/Safety.lean ====
section
/-! DEFINITION. The terms in which claims are made: what the rows of the table stand for, where a header is, which offsets a
scan examines, and the invariant of the machine. -/

namespace Sys2Proof.Machine

/-! ### Outcomes -/

/-- A step that stops: a fault or a refusal. A safe run has none. -/
def Stops (o : Host.Outcome State Fault Refusal) : Prop :=
  match o with
  | .next _ => False
  | .fault _ => True
  | .refused _ => True

/-- `k` steps of the machine. -/
def runSteps (k : Nat) (s : State) : Host.Outcome State Fault Refusal := Sys2Proof.core.run k s

/-- The step reads the source and the source answers (R239), with no reset in progress. -/
def Steady (s : State) : Prop := s.rst = false ∧ s.srcAnswers = true

/-! ### The rows of the table -/

/-- The record a valid header row stands for, by the version and layer index in its name (R100). -/
def rowRecord : Instr → Option HeaderRec
  | .hdrMpeg1L1 f => some (assembleHeader 3 0 f)
  | .hdrMpeg1L2 f => some (assembleHeader 3 1 f)
  | .hdrMpeg1L3 f => some (assembleHeader 3 2 f)
  | .hdrMpeg2L1 f => some (assembleHeader 2 0 f)
  | .hdrMpeg2L2 f => some (assembleHeader 2 1 f)
  | .hdrMpeg2L3 f => some (assembleHeader 2 2 f)
  | .hdrMpeg25L1 f => some (assembleHeader 0 0 f)
  | .hdrMpeg25L2 f => some (assembleHeader 0 1 f)
  | .hdrMpeg25L3 f => some (assembleHeader 0 2 f)
  | _ => none

/-- The failure kind of a reject row: none for index 15, which is no candidate (R84), InvalidHeader for the others. -/
def rejectKind : Instr → Option (Option FailureKind)
  | .hdrRejectBitrateIndex15 _ _ _ => some none
  | .hdrRejectVersionReserved _ _ => some (some .invalidHeader)
  | .hdrRejectLayerReserved _ _ => some (some .invalidHeader)
  | .hdrRejectBitrateIndex0 _ _ _ => some (some .invalidHeader)
  | .hdrRejectSamplerateIndex3 _ _ _ => some (some .invalidHeader)
  | .hdrRejectEmphasisReserved _ _ _ => some (some .invalidHeader)
  | .hdrRejectM1l2Bi1Cm0 _ => some (some .invalidHeader)
  | .hdrRejectM1l2Bi1Cm1 _ => some (some .invalidHeader)
  | .hdrRejectM1l2Bi1Cm2 _ => some (some .invalidHeader)
  | .hdrRejectM1l2Bi2Cm0 _ => some (some .invalidHeader)
  | .hdrRejectM1l2Bi2Cm1 _ => some (some .invalidHeader)
  | .hdrRejectM1l2Bi2Cm2 _ => some (some .invalidHeader)
  | .hdrRejectM1l2Bi3Cm0 _ => some (some .invalidHeader)
  | .hdrRejectM1l2Bi3Cm1 _ => some (some .invalidHeader)
  | .hdrRejectM1l2Bi3Cm2 _ => some (some .invalidHeader)
  | .hdrRejectM1l2Bi5Cm0 _ => some (some .invalidHeader)
  | .hdrRejectM1l2Bi5Cm1 _ => some (some .invalidHeader)
  | .hdrRejectM1l2Bi5Cm2 _ => some (some .invalidHeader)
  | .hdrRejectM1l2Bi11Mono _ => some (some .invalidHeader)
  | .hdrRejectM1l2Bi12Mono _ => some (some .invalidHeader)
  | .hdrRejectM1l2Bi13Mono _ => some (some .invalidHeader)
  | .hdrRejectM1l2Bi14Mono _ => some (some .invalidHeader)
  | _ => none

/-! ### What stands in the source -/

/-- Four readable bytes at an offset (R52). -/
def BytesAt (src : Memory) (c : Int) (b0 b1 b2 b3 : Byte) : Prop :=
  0 ≤ c ∧ memRead src c.toNat 4 = .bytes [b0, b1, b2, b3]

/-- At offset `c` stand four bytes that are a candidate (R156) and decode to `h` (R100): an attempt there is a hit. -/
def HeaderAt (src : Memory) (c : Int) (h : HeaderRec) : Prop :=
  ∃ b0 b1 b2 b3, BytesAt src c b0 b1 b2 b3 ∧ isCandidate b0 b1 b2 = true ∧ decodeWord (wordOfBytes b0 b1 b2 b3) = .ok h

/-- An attempt at `c` is a miss. -/
def NoHeaderAt (src : Memory) (c : Int) : Prop := ∀ h, ¬ HeaderAt src c h

/-- The 4-byte read at `c` is made and is Short. -/
def ShortAt (src : Memory) (c : Int) : Prop := 0 ≤ c ∧ memRead src c.toNat 4 = .short

/-- The offset of attempt `k` of an exact-offset scan from `O`: the last two columns of the table of R161. -/
def probePosition (mode : ProbeMode) (O : Int) (k : Nat) : Int :=
  match mode with
  | .cumulative => if k % 2 = 1 then O + ((k + 1) / 2 : Nat) else O - (k / 2 : Nat)
  | .absolute => if k % 2 = 1 then O + k else O - k

/-- What a scan answers at its first hit: without a baseline, found; with one, MATCH decides, and a mismatch is a hard stop
(R158). -/
def atFirstHit (base : Option HeaderRec) (h : HeaderRec) (p : Int) : ScanResult :=
  match base with
  | none => .ok (h, p)
  | some hb => if matchResult h hb then .ok (h, p) else .error .chainMismatch

/-! ### The invariant -/

/-- The largest offset SKIPTAG(0) can give (R152). -/
def maxTagOffset : Nat := 0x20000013

/-- What holds in each phase (R28, R188, R240). The free fields of IDLE are those the unit operations may leave. -/
def PhaseInv (s : State) : Prop :=
  match s.phase with
  | .idle => s.busy = false ∧ (s.verdict = true → s.done = true)
  | .tag =>
    s.busy = true ∧ s.done = false ∧ s.verdict = false ∧ s.exact = false ∧ s.findsub = true ∧ s.hbValid = false
  | .scan1 =>
    s.busy = true ∧ s.done = false ∧ s.verdict = false ∧ s.exact = false ∧ s.findsub = true ∧ s.hbValid = false ∧
    s.stepReg = 1 ∧ s.n.toNat < Config.maxScanRange ∧ s.origin.toNat ≤ maxTagOffset ∧
    s.pc.toNat = s.origin.toNat + s.n.toNat
  | .scan2 =>
    s.busy = true ∧ s.done = false ∧ s.verdict = false ∧ s.exact = true ∧ s.findsub = false ∧ s.hbValid = true ∧
    validRecord s.hb = true ∧ s.fsize.toNat = frameSizeFormula s.hb ∧ s.n.toNat < Config.maxScanRange ∧
    1 ≤ s.stepReg.toNat ∧ s.stepReg.toNat ≤ Config.exactTolerance + 1 ∧
    24 ≤ s.origin.toNat ∧ s.origin.toNat ≤ maxTagOffset + 16383 + 2881 ∧
    (s.pc.toNat : Int) = probePosition s.params.probeMode s.origin.toNat (s.stepReg.toNat - 1)

/-- The invariant of the machine: the source in its canonical form, and the registers as the phase says. -/
def Inv (s : State) : Prop := s.src.wf = true ∧ PhaseInv s

end Sys2Proof.Machine
end

