-- ==== Sys2Proof/Certificates/Slice0/Obligations.lean ====
section
/-! DEFINITION. The statements for the provers, from the numbered rules of spec/. A docstring names the rule; where the
spec marks its own sentence as a decision or a derivation, or the model chose, it says so and names the D<n> or the log
entry. -/

section Statements

open Sys2Proof Sys2Proof.Machine

/-! ### Encoding -/

/-- R71, R80, R87. Every bit of every encoding comes back. -/
def Obligations.DecodeOfEncode : Prop :=
  ∀ i : Instr, i.wellFormed = true → Sys2Proof.decode i.format (encode i) = .ok i

/-- R71, R80, R84, R87. The decoder answers well-formed rows of the format it was asked for, and no two byte strings of a
format are the same row. -/
def Obligations.EncodeOfDecode : Prop :=
  ∀ (fmt : Format) (bs : List Byte) (i : Instr), Sys2Proof.decode fmt bs = .ok i →
    i.wellFormed = true ∧ i.format = fmt ∧ encode i = bs

/-- Words written out from R71, R80 and R87, one of each family and of each kind of rejection. -/
def Obligations.WrittenWordsDecode : Prop :=
  -- 1111_1111 1111_1011 1001_0010 0110_0100
  Sys2Proof.decode .mpegHdr32 [0xFF, 0xFB, 0x92, 0x64] =
    .ok (.hdrMpeg1L3
      { prot := 1, bitrate := 9, srate := 0, pad := 1, priv := 0, cmode := 1, mext := 2, copy := 0, orig := 1, emph := 0 }) ∧
  -- 1111_1111 1111_0100 1010_0101 0000_1001
  Sys2Proof.decode .mpegHdr32 [0xFF, 0xF4, 0xA5, 0x09] =
    .ok (.hdrMpeg2L2
      { prot := 0, bitrate := 10, srate := 1, pad := 0, priv := 1, cmode := 0, mext := 0, copy := 1, orig := 0, emph := 1 }) ∧
  -- 1111_1111 1110_0111 1110_0010 1111_1111
  Sys2Proof.decode .mpegHdr32 [0xFF, 0xE7, 0xE2, 0xFF] =
    .ok (.hdrMpeg25L1
      { prot := 1, bitrate := 14, srate := 0, pad := 1, priv := 0, cmode := 3, mext := 3, copy := 1, orig := 1, emph := 3 }) ∧
  -- 1111_1111 1110_1011 1001_0000 0000_0000: V = 01
  Sys2Proof.decode .mpegHdr32 [0xFF, 0xEB, 0x90, 0x00] =
    .ok (.hdrRejectVersionReserved 1
      { prot := 1, bitrate := 9, srate := 0, pad := 0, priv := 0, cmode := 0, mext := 0, copy := 0, orig := 0, emph := 0 }) ∧
  -- 1111_1111 1111_1101 1011_0000 1100_0000: MPEG1 Layer2, index 11, mono
  Sys2Proof.decode .mpegHdr32 [0xFF, 0xFD, 0xB0, 0xC0] =
    .ok (.hdrRejectM1l2Bi11Mono
      { prot := 1, bitrate := 11, srate := 0, pad := 0, priv := 0, cmode := 3, mext := 0, copy := 0, orig := 0, emph := 0 }) ∧
  Sys2Proof.decode .mpegHdr32 [0xFF, 0xDB, 0x90, 0x00] = .error .noSync ∧
  -- "ID3", version 04 00, flags 0001_0000, size 00 00 02 01
  Sys2Proof.decode .id3v2Hdr80 [0x49, 0x44, 0x33, 0x04, 0x00, 0x10, 0x00, 0x00, 0x02, 0x01] =
    .ok (.id3v2TagFooter
      { verMajor := 4, verMinor := 0, flagsHigh := 0, flagsLow := 0, b6 := 0, b7 := 0, b8 := 2, b9 := 1 }) ∧
  Sys2Proof.decode .id3v2Hdr80 [0x49, 0x44, 0x33, 0x03, 0x00, 0xEF, 0x00, 0x00, 0x02, 0x01] =
    .ok (.id3v2TagNoFooter
      { verMajor := 3, verMinor := 0, flagsHigh := 7, flagsLow := 15, b6 := 0, b7 := 0, b8 := 2, b9 := 1 }) ∧
  Sys2Proof.decode .unitOp [0x00] = .ok .detect ∧
  Sys2Proof.decode .unitOp [0x06] = .ok .matchHeaders ∧
  Sys2Proof.decode .unitOp [0x07] = .error .unassignedUnit

/-- The byte positions of R71 (the version code's by the resolution C1 that R71 names). -/
def Obligations.FieldsStandInTheirBytes : Prop :=
  ∀ b0 b1 b2 b3 : Byte,
    (wordOfBytes b0 b1 b2 b3).toNat = b0.toNat * 2 ^ 24 + b1.toNat * 2 ^ 16 + b2.toNat * 2 ^ 8 + b3.toNat ∧
    (syncField (wordOfBytes b0 b1 b2 b3) = 0x7FF ↔ b0 = 0xFF ∧ b1.extractLsb' 5 3 = 7) ∧
    versionField (wordOfBytes b0 b1 b2 b3) = b1.extractLsb' 3 2 ∧
    layerField (wordOfBytes b0 b1 b2 b3) = b1.extractLsb' 1 2 ∧
    fieldsOfWord (wordOfBytes b0 b1 b2 b3) =
      { prot := b1.extractLsb' 0 1
        bitrate := b2.extractLsb' 4 4
        srate := b2.extractLsb' 2 2
        pad := b2.extractLsb' 1 1
        priv := b2.extractLsb' 0 1
        cmode := b3.extractLsb' 6 2
        mext := b3.extractLsb' 4 2
        copy := b3.extractLsb' 3 1
        orig := b3.extractLsb' 2 1
        emph := b3.extractLsb' 0 2 }

/-- R156, both of its wordings: the byte masks, and "In word terms". -/
def Obligations.CandidateIsSyncAndIndex : Prop :=
  ∀ b0 b1 b2 b3 : Byte,
    (isCandidate b0 b1 b2 = true ↔ b0 = 0xFF ∧ b1 &&& 0xE0 = 0xE0 ∧ b2 &&& 0xF0 ≠ 0xF0) ∧
    (isCandidate b0 b1 b2 = true ↔
      syncField (wordOfBytes b0 b1 b2 b3) = 0x7FF ∧ (wordOfBytes b0 b1 b2 b3).extractLsb' 12 4 ≠ (15 : BitVec 4))

/-- R84, R85, R100: a word's row is a valid row exactly when DECODE answers that row's record, and a reject row exactly
when DECODE answers InvalidHeader; the row of index 15 is exactly the words with sync that are no candidates. Which reject
row an overlap takes is DEDUCED (log 5). The first two clauses hold whichever it is; the third rests on that log's index 15
first, which is R84's order of classes. -/
def Obligations.RowsAgreeWithDecoder : Prop :=
  ∀ (b0 b1 b2 b3 : Byte) (i : Instr), Sys2Proof.decode .mpegHdr32 [b0, b1, b2, b3] = .ok i →
    (∀ h, rowRecord i = some h ↔ decodeWord (wordOfBytes b0 b1 b2 b3) = .ok h) ∧
    ((∃ k, rejectKind i = some k) ↔ decodeWord (wordOfBytes b0 b1 b2 b3) = .error .invalidHeader) ∧
    (rejectKind i = some none ↔ isCandidate b0 b1 b2 = false)

/-! ### The Header Decoder -/

/-- R113: when DECODE answers Ok. ALLOWED is spelt out by its bit rates: not mono excludes 1, 2, 3, 5, mono excludes 11 to 14
(R35, whose entries the spec takes from general knowledge, log 15). -/
def Obligations.DecodeOkExactlyWhen : Prop :=
  ∀ w : Word,
    ((∃ h, decodeWord w = .ok h) ↔
      w.extractLsb' 19 2 ≠ (1 : BitVec 2) ∧ w.extractLsb' 17 2 ≠ (0 : BitVec 2) ∧
      1 ≤ (w.extractLsb' 12 4).toNat ∧ (w.extractLsb' 12 4).toNat ≤ 14 ∧
      w.extractLsb' 10 2 ≠ (3 : BitVec 2) ∧ w.extractLsb' 0 2 ≠ (2 : BitVec 2) ∧
      (w.extractLsb' 19 2 = (3 : BitVec 2) ∧ w.extractLsb' 17 2 = (2 : BitVec 2) →
        if w.extractLsb' 6 2 = (3 : BitVec 2) then (w.extractLsb' 12 4).toNat ≤ 10
        else (w.extractLsb' 12 4).toNat ∉ [1, 2, 3, 5])) ∧
    ((¬ ∃ h, decodeWord w = .ok h) ↔ decodeWord w = .error .invalidHeader)

/-- R101 to R112: every field of the record, all seventeen, as a number, with no bit lost. The allocation table index is
the case table of R36 (log 15) for MPEG1 Layer2, 4 for the other Layer2 headers, else absent (R112). -/
def Obligations.DecodedRecordFields : Prop :=
  ∀ (w : Word) (h : HeaderRec), decodeWord w = .ok h →
    h.version = w.extractLsb' 19 2 ∧
    (h.lsf = false ↔ w.extractLsb' 19 2 = (3 : BitVec 2)) ∧
    h.layer.toNat + (w.extractLsb' 17 2).toNat = 3 ∧
    (h.hasCRC = true ↔ w.getLsbD 16 = false) ∧
    h.bitrateIndex = w.extractLsb' 12 4 ∧
    h.bitrateBps.toNat = 1000 * bitrateTable h.lsf h.layer h.bitrateIndex ∧
    8000 ≤ h.bitrateBps.toNat ∧ h.bitrateBps.toNat ≤ 448000 ∧
    h.sampleRateHz.toNat = sampleRateTable h.version (w.extractLsb' 10 2) ∧
    h.sampleRateHz.toNat ∈ [11025, 12000, 8000, 22050, 24000, 16000, 44100, 48000, 32000] ∧
    h.paddingSize = w.extractLsb' 9 1 ∧
    h.samplesPerFrame.toNat = samplesTable h.lsf h.layer ∧
    h.privateBit = w.getLsbD 8 ∧
    h.channelMode = w.extractLsb' 6 2 ∧
    h.modeExtension = w.extractLsb' 4 2 ∧
    (h.channelMode = 1 → ∃ b, h.intensityStereoBound = some b ∧ b.toNat = 4 + 4 * h.modeExtension.toNat) ∧
    (h.channelMode ≠ 1 → h.intensityStereoBound = none) ∧
    h.copyright = w.getLsbD 3 ∧
    h.original = w.getLsbD 2 ∧
    h.emphasis = w.extractLsb' 0 2 ∧
    h.allocationTableIndex =
      (if h.layer ≠ 1 then none
       else if h.version = 3 then
        allocTable (h.bitrateBps.toNat / 1000 / (if h.channelMode = 3 then 1 else 2)) h.sampleRateHz.toNat
       else some 4)

/-- R72, the spec's own decision D13: DECODE does not depend on bits 31:21. -/
def Obligations.DecodeIgnoresSyncBits : Prop :=
  ∀ w w' : Word, w.extractLsb' 0 21 = w'.extractLsb' 0 21 → decodeWord w = decodeWord w'

/-- R26: "A header record exists only for a valid header". The model's test `validRecord` is exactly that. -/
def Obligations.ValidRecordIsDecoded : Prop :=
  ∀ h : HeaderRec, validRecord h = true ↔ ∃ w : Word, decodeWord w = .ok h

/-- R112 and R26: when the allocation table index is present, its fixed value 4, and, by the derivation in R36, that the case
table covers every allowed MPEG1 Layer2 header. -/
def Obligations.AllocationIndexOfLayer2 : Prop :=
  ∀ (w : Word) (h : HeaderRec), decodeWord w = .ok h →
    (h.allocationTableIndex = none ↔ h.layer ≠ 1) ∧
    (h.layer = 1 → h.version ≠ 3 → h.allocationTableIndex = some 4) ∧
    (h.layer = 1 → h.version = 3 →
      ∃ a, h.allocationTableIndex = some a ∧ a.toNat ≤ 3 ∧
        allocTable (h.bitrateBps.toNat / 1000 / (if isMono h then 1 else 2)) h.sampleRateHz.toNat = some a)

/-- R100, R38, R115: DECODE alone writes HC on success only, and nothing else of the block. The two ghosts are the model's
(log 16). -/
def Obligations.DecodeUnitWritesCandidate : Prop :=
  ∀ s : State,
    (∀ h, decodeWord s.w = .ok h →
      exec .decode s = .next { s with hc := h, unitResult := some (.header h), lastFailure := none }) ∧
    (∀ k, decodeWord s.w = .error k →
      k = .invalidHeader ∧
      exec .decode s = .next { s with unitResult := some .invalidHeader, lastFailure := some .invalidHeader })

/-! ### The Frame Size Calculator -/

/-- R131, with the tables of R33 and R34 spelt out. -/
def Obligations.FrameSizeOfDecodedHeader : Prop :=
  ∀ (w : Word) (h : HeaderRec), decodeWord w = .ok h →
    frameSize h =
      ((if h.layer = 0 then 12 else if h.layer = 2 ∧ h.lsf = true then 72 else 144) * h.bitrateBps.toNat /
          h.sampleRateHz.toNat + h.paddingSize.toNat) * (if h.layer = 0 then 4 else 1)

/-- R134 and the product bound of R133, which the spec derives by enumeration: 24 to 2881, both reached, no overflow of 26
bits and no division by zero. -/
def Obligations.FrameSizeRange : Prop :=
  (∀ (w : Word) (h : HeaderRec), decodeWord w = .ok h →
    24 ≤ frameSize h ∧ frameSize h ≤ 2881 ∧
    coeffTable h.lsf h.layer * h.bitrateBps.toNat ≤ 55296000 ∧ 0 < h.sampleRateHz.toNat) ∧
  (∃ w h, decodeWord w = .ok h ∧ frameSize h = 24) ∧
  (∃ w h, decodeWord w = .ok h ∧ frameSize h = 2881)

/-- R135. -/
def Obligations.FrameSizeIsSlotMultiple : Prop :=
  ∀ (w : Word) (h : HeaderRec), decodeWord w = .ok h →
    0 < frameSize h ∧ (if h.layer = 0 then 4 else 1) ∣ frameSize h

/-- R130, R38: FSIZE alone writes `fsize`, all its bits, and nothing else of the block; on a record that is no valid header
the size is a free value of 12 bits (R133, log 8). -/
def Obligations.FsizeUnitWritesFsize : Prop :=
  ∀ s : State,
    (validRecord s.hc = true →
      ∃ b : BitVec 12, b.toNat = frameSizeFormula s.hc ∧
        exec .fsize s = .next { s with fsize := b, unitResult := some (.size b.toNat), lastFailure := none }) ∧
    (validRecord s.hc = false →
      ∃ b : BitVec 12,
        exec .fsize s = .next { s with fsize := b, unitResult := some (.size b.toNat), lastFailure := none })

/-! ### The Header Compatibility Check -/

/-- R141, on decoded headers. -/
def Obligations.MatchPredicate : Prop :=
  ∀ (wa wb : Word) (a b : HeaderRec), decodeWord wa = .ok a → decodeWord wb = .ok b →
    (matchResult a b = true ↔
      a.version = b.version ∧ a.layer = b.layer ∧ a.sampleRateHz = b.sampleRateHz ∧
      ((a.channelMode = 3) ↔ (b.channelMode = 3)) ∧ a.emphasis = b.emphasis)

/-- R143, which the spec derives: an equivalence on valid records, and equal rates imply equal versions. -/
def Obligations.MatchIsEquivalence : Prop :=
  (∀ a, validRecord a = true → matchResult a a = true) ∧
  (∀ a b, validRecord a = true → validRecord b = true → matchResult a b = matchResult b a) ∧
  (∀ a b c, validRecord a = true → validRecord b = true → validRecord c = true →
    matchResult a b = true → matchResult b c = true → matchResult a c = true) ∧
  (∀ a b, validRecord a = true → validRecord b = true → a.sampleRateHz = b.sampleRateHz → a.version = b.version)

/-- R140, R38: MATCH alone writes nothing of the block; with both operands valid and `HB.valid` its bit is R141's, else a free
value (log 9). -/
def Obligations.MatchUnitWritesNothing : Prop :=
  ∀ s : State,
    (validRecord s.hc = true → validRecord s.hb = true → s.hbValid = true →
      exec .matchHeaders s = .next { s with unitResult := some (.bit (headersMatch s.hc s.hb)), lastFailure := none }) ∧
    (∃ b, exec .matchHeaders s = .next { s with unitResult := some (.bit b), lastFailure := none })

/-! ### The ID3v2 Tag Skipper -/

/-- R81 and its decision D14: OR of the shifted full bytes; for well-formed bytes the sum, below 2^28; for any bytes at most
0x1FFFFFFF, which four bytes of 0xFF give. R82: the total length, and its maximum. -/
def Obligations.TagSizeBounds : Prop :=
  (∀ b6 b7 b8 b9 : Byte, b6.toNat < 0x80 → b7.toNat < 0x80 → b8.toNat < 0x80 → b9.toNat < 0x80 →
    syncsafe b6 b7 b8 b9 = b6.toNat * 2 ^ 21 + b7.toNat * 2 ^ 14 + b8.toNat * 2 ^ 7 + b9.toNat ∧
    syncsafe b6 b7 b8 b9 < 2 ^ 28) ∧
  (∀ b6 b7 b8 b9 : Byte, syncsafe b6 b7 b8 b9 ≤ 0x1FFFFFFF) ∧
  syncsafe 0xFF 0xFF 0xFF 0xFF = 0x1FFFFFFF ∧
  (∀ (footer : Bool) (b6 b7 b8 b9 : Byte),
    tagLength footer b6 b7 b8 b9 = 10 + syncsafe b6 b7 b8 b9 + (if footer then 10 else 0) ∧
    tagLength footer b6 b7 b8 b9 ≤ 0x20000013)

/-- R146 to R150, R152: SKIPTAG from offset 0, in terms of the row the ten bytes decode to; a source of fewer than ten bytes and
any other signature leave 0. -/
def Obligations.SkipTagFromZero : Prop :=
  ∀ src : Memory,
    (src.len < 10 → skipTag src 0 = 0) ∧
    (∀ bs e, memRead src 0 10 = .bytes bs → Sys2Proof.decode .id3v2Hdr80 bs = .error e → skipTag src 0 = 0) ∧
    (∀ bs t, memRead src 0 10 = .bytes bs → Sys2Proof.decode .id3v2Hdr80 bs = .ok (.id3v2TagNoFooter t) →
      skipTag src 0 = 10 + syncsafe t.b6 t.b7 t.b8 t.b9) ∧
    (∀ bs t, memRead src 0 10 = .bytes bs → Sys2Proof.decode .id3v2Hdr80 bs = .ok (.id3v2TagFooter t) →
      skipTag src 0 = 10 + syncsafe t.b6 t.b7 t.b8 t.b9 + 10) ∧
    skipTag src 0 ≤ 0x20000013

/-- R145, R38: SKIPTAG alone, from every offset `off` in `pc` (log 10), its pseudocode whole: a Short read and any other
signature answer `off`; a tag answers `off + 10 + N`, plus 10 with a footer. It writes `pc` (the low 32 bits of the answer),
and `T` when the read is not Short; the port and the ghosts are the model's (logs 16, 19). -/
def Obligations.SkiptagUnitWritesCursor : Prop :=
  ∀ s : State,
    (memRead s.src s.pc.toNat 10 = .short →
      skipTag s.src s.pc.toNat = s.pc.toNat ∧
      exec .skiptag s =
        .next { s with
          port := { reqValid := true, reqAddr := s.pc, reqLen := true, rsp := .short }
          reads := s.reads + 1
          unitResult := some (.offset s.pc.toNat)
          lastFailure := some .sourceUnreadable }) ∧
    (∀ t0 t1 t2 t3 t4 t5 t6 t7 t8 t9 : Byte,
      memRead s.src s.pc.toNat 10 = .bytes [t0, t1, t2, t3, t4, t5, t6, t7, t8, t9] →
      skipTag s.src s.pc.toNat =
        (if t0 = 0x49 ∧ t1 = 0x44 ∧ t2 = 0x33 then
          s.pc.toNat + 10 + (t6.toNat <<< 21 ||| t7.toNat <<< 14 ||| t8.toNat <<< 7 ||| t9.toNat) +
            (if t5.getLsbD 4 = true then 10 else 0)
         else s.pc.toNat) ∧
      exec .skiptag s =
        .next { s with
          pc := BitVec.ofNat 32 (skipTag s.src s.pc.toNat)
          t := t0 ++ t1 ++ t2 ++ t3 ++ t4 ++ t5 ++ t6 ++ t7 ++ t8 ++ t9
          port :=
            { reqValid := true, reqAddr := s.pc, reqLen := true
              rsp := .tag (t0 ++ t1 ++ t2 ++ t3 ++ t4 ++ t5 ++ t6 ++ t7 ++ t8 ++ t9) }
          reads := s.reads + 1
          unitResult := some (.offset (skipTag s.src s.pc.toNat))
          lastFailure := none })

/-- Row TAG of R188 (decision D2) for the two tag rows, with the lengths of R146. That `origin` takes the new `pc` is DEDUCED from
R23 and R155 (log 25). In another phase, where no step fetches a tag row, only `pc` takes the length, the model's choice
(log 6). -/
def Obligations.TagRowsEnterForwardScan : Prop :=
  ∀ (t : TagFields) (s : State),
    (s.phase = .tag →
      exec (.id3v2TagNoFooter t) s =
        .next { s with
          pc := BitVec.ofNat 32 (10 + syncsafe t.b6 t.b7 t.b8 t.b9)
          origin := BitVec.ofNat 32 (10 + syncsafe t.b6 t.b7 t.b8 t.b9)
          n := 0, stepReg := 1, phase := .scan1, lastFailure := none } ∧
      exec (.id3v2TagFooter t) s =
        .next { s with
          pc := BitVec.ofNat 32 (10 + syncsafe t.b6 t.b7 t.b8 t.b9 + 10)
          origin := BitVec.ofNat 32 (10 + syncsafe t.b6 t.b7 t.b8 t.b9 + 10)
          n := 0, stepReg := 1, phase := .scan1, lastFailure := none }) ∧
    (s.phase ≠ .tag →
      exec (.id3v2TagNoFooter t) s =
        .next { s with pc := BitVec.ofNat 32 (10 + syncsafe t.b6 t.b7 t.b8 t.b9), lastFailure := none } ∧
      exec (.id3v2TagFooter t) s =
        .next { s with pc := BitVec.ofNat 32 (10 + syncsafe t.b6 t.b7 t.b8 t.b9 + 10), lastFailure := none })

/-! ### The byte source -/

/-- R52. -/
def Obligations.MemReadAllOrNothing : Prop :=
  ∀ (src : Memory) (addr n : Nat),
    (addr + n ≤ src.len →
      ∃ bs, memRead src addr n = .bytes bs ∧ bs.length = n ∧
        ∀ k, k < n → bs[k]? = src.readByte (addr + k)) ∧
    (src.len < addr + n → memRead src addr n = .short)

/-- R61: no row, no unit and no step writes the source. Nor the parameters of R6 (R20: "Not state, but parameters"): that they
stand in State and that no step changes them is the model's choice (log 14). -/
def Obligations.SourceNeverWritten : Prop :=
  (∀ (i : Instr) (s t : State), exec i s = .next t → t.src = s.src ∧ t.params = s.params) ∧
  (∀ s t : State, step s = .next t → t.src = s.src ∧ t.params = s.params)

/-- The canonical form of the model's source (log 1): equal sources are equal data. -/
def Obligations.EqualSourcesAreEqualData : Prop :=
  ∀ m m' : Memory, m.wf = true → m'.wf = true → m.len = m'.len →
    (∀ a, a < m.len → m.readByte a = m'.readByte a) → m = m'

/-! ### The Sync Scanner -/

/-- R160, R158, R159, R169 (the count of 16384 by decision D6): a forward scan from any offset, below zero too (R168, D17), stops
at the first of its 16384 offsets where a header stands, and MATCH alone decides there; no header on any of them exhausts it. -/
def Obligations.ForwardScanTakesFirstHeader : Prop :=
  ∀ (p : Params) (src : Memory) (off : Int) (base : Option HeaderRec),
    (∀ (k : Nat) (h : HeaderRec), k < 16384 → HeaderAt src (off + k) h →
      (∀ j : Nat, j < k → NoHeaderAt src (off + j)) →
      findFrame p src off false base = atFirstHit base h (off + k)) ∧
    ((∀ k : Nat, k < 16384 → NoHeaderAt src (off + k)) → findFrame p src off false base = .error .scanExhausted)

/-- R161, R158, R159, R162 under `EOS_POLICY = failed_attempt` (decisions D7, D8, D16, D17): an exact-offset scan stops at the
first of its seven offsets where a header stands, Short reads on the way or not. The offsets are the columns of R161. -/
def Obligations.ExactScanTakesFirstHeader : Prop :=
  ((List.range 7).map (probePosition .cumulative 0) = [0, 1, -1, 2, -2, 3, -3] ∧
   (List.range 7).map (probePosition .absolute 0) = [0, 1, -2, 3, -4, 5, -6]) ∧
  ∀ (p : Params) (src : Memory) (off : Int) (base : Option HeaderRec), p.eosPolicy = .failedAttempt →
    (∀ (k : Nat) (h : HeaderRec), k < 7 → HeaderAt src (off + probePosition p.probeMode 0 k) h →
      (∀ j : Nat, j < k → NoHeaderAt src (off + probePosition p.probeMode 0 j)) →
      findFrame p src off true base = atFirstHit base h (off + probePosition p.probeMode 0 k)) ∧
    ((∀ k : Nat, k < 7 → NoHeaderAt src (off + probePosition p.probeMode 0 k)) →
      findFrame p src off true base = .error .scanExhausted)

/-- R162 under `EOS_POLICY = stop_at_once` (decision D16): a Short read before the first header ends an exact-offset scan; the
forward scan is the same under both policies. -/
def Obligations.StopAtOnceEndsExactScan : Prop :=
  (∀ (p : Params) (src : Memory) (off : Int) (base : Option HeaderRec), p.eosPolicy = .stopAtOnce →
    (∀ k : Nat, k < 7 → ShortAt src (off + probePosition p.probeMode 0 k) →
      (∀ j : Nat, j < k → NoHeaderAt src (off + probePosition p.probeMode 0 j)) →
      findFrame p src off true base = .error .scanExhausted) ∧
    (∀ (k : Nat) (h : HeaderRec), k < 7 → HeaderAt src (off + probePosition p.probeMode 0 k) h →
      (∀ j : Nat, j < k → NoHeaderAt src (off + probePosition p.probeMode 0 j) ∧
        ¬ ShortAt src (off + probePosition p.probeMode 0 j)) →
      findFrame p src off true base = atFirstHit base h (off + probePosition p.probeMode 0 k)) ∧
    ((∀ k : Nat, k < 7 → NoHeaderAt src (off + probePosition p.probeMode 0 k)) →
      findFrame p src off true base = .error .scanExhausted)) ∧
  (∀ (p p' : Params) (src : Memory) (off : Int) (base : Option HeaderRec),
    findFrame p src off false base = findFrame p' src off false base)

/-- R155, R164, R202 to R204: what a result means, for every operand combination. -/
def Obligations.ScanResultMeaning : Prop :=
  ∀ (p : Params) (src : Memory) (off : Int) (exact : Bool) (base : Option HeaderRec),
    (∀ h pos, findFrame p src off exact base = .ok (h, pos) →
      HeaderAt src pos h ∧ validRecord h = true ∧
      (∀ hb, base = some hb → validRecord hb = true → headersMatch h hb = true)) ∧
    (∀ k, findFrame p src off exact base = .error k →
      k = .scanExhausted ∨ (k = .chainMismatch ∧ base ≠ none))

/-- R165. -/
def Obligations.ScanReadBounds : Prop :=
  ∀ (p : Params) (src : Memory) (off : Int) (base : Option HeaderRec),
    (scanRun p src off false base).2.reads ≤ 16384 ∧ (scanRun p src off true base).2.reads ≤ 7

/-- R155, R38: FINDFRAME alone, from the operands in the registers (log 11), completes with the scan's result; of the block it
writes `W`, `HC`, `pc`, `n`, `step` and `origin` only. Found: `W` is the word at `p`, `HC` its header, and `n` or `step` counts the
failed attempts before it. ScanExhausted: `HC` keeps its value, `W` its own or a word of the source; a forward scan then stands at
its last offset with `n = 16384` on every source, Short reads or not, because the model does not take R163's shortcut (log 13,
DESIGN CHOICE). ChainMismatch: `W` and `HC` are of the header that stands at the cursor. -/
def Obligations.FindframeUnitCompletes : Prop :=
  ∀ s : State, ∃ t, exec .findframe s = .next t ∧
    t = { s with
      w := t.w, hc := t.hc, pc := t.pc, n := t.n, stepReg := t.stepReg, origin := t.origin
      port := t.port, reads := t.reads, unitResult := t.unitResult, lastFailure := t.lastFailure } ∧
    t.origin = s.pc ∧
    (∀ h p, findFrame s.params s.src s.pc.toNat s.exact (if s.hbValid then some s.hb else none) = .ok (h, p) →
      t.unitResult = some (.found h p) ∧ t.hc = h ∧ t.pc = BitVec.ofInt 32 p ∧
      (s.exact = false → t.n.toNat < 16384 ∧ p = s.pc.toNat + t.n.toNat) ∧
      (s.exact = true → 1 ≤ t.stepReg.toNat ∧ p = probePosition s.params.probeMode s.pc.toNat (t.stepReg.toNat - 1)) ∧
      ∃ b0 b1 b2 b3, BytesAt s.src p b0 b1 b2 b3 ∧ t.w = wordOfBytes b0 b1 b2 b3) ∧
    (∀ k, findFrame s.params s.src s.pc.toNat s.exact (if s.hbValid then some s.hb else none) = .error k →
      t.unitResult = some (.notFound k) ∧
      (k = .scanExhausted →
        t.hc = s.hc ∧
        (t.w = s.w ∨ ∃ c b0 b1 b2 b3, BytesAt s.src c b0 b1 b2 b3 ∧ t.w = wordOfBytes b0 b1 b2 b3) ∧
        (s.exact = false → t.n.toNat = 16384 ∧ t.pc = BitVec.ofNat 32 (s.pc.toNat + 16383)) ∧
        (s.exact = true → s.params.eosPolicy = .failedAttempt →
          t.stepReg.toNat = 7 ∧ t.pc = BitVec.ofInt 32 (probePosition s.params.probeMode s.pc.toNat 6))) ∧
      (k = .chainMismatch →
        ∃ c h b0 b1 b2 b3, BytesAt s.src c b0 b1 b2 b3 ∧ decodeWord (wordOfBytes b0 b1 b2 b3) = .ok h ∧
          t.hc = h ∧ t.w = wordOfBytes b0 b1 b2 b3 ∧ t.pc = BitVec.ofInt 32 c)) ∧
    (s.exact = true → t.n = 0) ∧ (s.exact = false → t.stepReg = 1) ∧
    s.reads ≤ t.reads ∧ t.reads ≤ s.reads + 16384

/-! ### The Chain Verifier -/

/-- R175: VERIFY's bit, with R131's size of the found header. -/
def Obligations.VerifyBit : Prop :=
  ∀ (p : Params) (src : Memory) (off : Int) (findsub exact : Bool) (cmp : Option HeaderRec),
    verifyChain p src off findsub exact cmp = true ↔
      ∃ h pos, findFrame p src off exact cmp = .ok (h, pos) ∧
        (findsub = true →
          ∃ h2 p2, findFrame p src (pos + frameSizeFormula h) true (some h) = .ok (h2, p2))

/-- R175, R177, R38: VERIFY alone, from the operands in the registers (log 11), completes with that bit; when its lookup fails
it writes no `fsize` and no flag, and when it runs the chain step it leaves the flags of the second-frame scan, the first
header as baseline, and `n` as the inner FINDFRAME's entry sets it (R155, R212; log 12 for DETECT). -/
def Obligations.VerifyUnitCompletes : Prop :=
  ∀ s : State, ∃ t, exec .verify s = .next t ∧
    t.unitResult = some
      (.bit (verifyChain s.params s.src s.pc.toNat s.findsub s.exact (if s.hbValid then some s.hb else none))) ∧
    t = { s with
      w := t.w, hc := t.hc, pc := t.pc, n := t.n, stepReg := t.stepReg, origin := t.origin, fsize := t.fsize, hb := t.hb
      exact := t.exact, findsub := t.findsub, hbValid := t.hbValid
      port := t.port, reads := t.reads, unitResult := t.unitResult, lastFailure := t.lastFailure } ∧
    (∀ k, findFrame s.params s.src s.pc.toNat s.exact (if s.hbValid then some s.hb else none) = .error k →
      t.fsize = s.fsize ∧ t.hb = s.hb ∧ t.exact = s.exact ∧ t.findsub = s.findsub ∧ t.hbValid = s.hbValid) ∧
    (∀ h p, findFrame s.params s.src s.pc.toNat s.exact (if s.hbValid then some s.hb else none) = .ok (h, p) →
      (s.findsub = false →
        t.fsize.toNat = frameSizeFormula h ∧ t.hc = h ∧ t.pc = BitVec.ofInt 32 p ∧
        t.hb = s.hb ∧ t.exact = s.exact ∧ t.findsub = s.findsub ∧ t.hbValid = s.hbValid) ∧
      (s.findsub = true →
        t.hb = h ∧ t.hbValid = true ∧ t.exact = true ∧ t.findsub = false ∧ t.n = 0 ∧
        t.origin = BitVec.ofInt 32 (p + frameSizeFormula h)))

/-! ### Top-Level Detection -/

/-- R185 (its unfolding is the spec's derivation), R186: DETECT from IDLE completes with the verdict, `done`, not busy; what is
outside the block does not change. -/
def Obligations.DetectVerdictIff : Prop :=
  ∀ s : State, s.phase = .idle →
    ∃ t, exec .detect s = .next t ∧
      t.phase = .idle ∧ t.busy = false ∧ t.done = true ∧
      (t.verdict = true ↔
        ∃ h1 p1 h2 p2,
          findFrame s.params s.src (skipTag s.src 0) false none = .ok (h1, p1) ∧
          findFrame s.params s.src (p1 + frameSizeFormula h1) true (some h1) = .ok (h2, p2)) ∧
      t.unitResult = some (.bit t.verdict) ∧
      t.src = s.src ∧ t.params = s.params ∧ t.start = s.start ∧ t.rst = s.rst ∧ t.srcAnswers = s.srcAnswers ∧
      t.unitReq = s.unitReq ∧ t.freeCount = s.freeCount

/-- R237 (decision D2): a start, or a DETECT request, while a detection is in progress has no effect and is not remembered. -/
def Obligations.StartIgnoredWhileBusy : Prop :=
  ∀ s : State, s.phase ≠ .idle →
    exec .detect s = .next s ∧
    (∀ b, step { s with start := b } = step s) ∧
    (∀ t, step s = .next t → t.start = false)

/-- R233, which the spec derives: a detection does not depend on what the one before it left. -/
def Obligations.DetectForgetsThePast : Prop :=
  ∀ s s' : State, s.phase = .idle → s'.phase = .idle → s.src = s'.src → s.params = s'.params →
    ∃ t t', exec .detect s = .next t ∧ exec .detect s' = .next t' ∧
      t.verdict = t'.verdict ∧ t.pc = t'.pc ∧ t.origin = t'.origin ∧ t.n = t'.n ∧ t.stepReg = t'.stepReg ∧
      t.exact = t'.exact ∧ t.findsub = t'.findsub ∧ t.hbValid = t'.hbValid ∧ t.reads = t'.reads ∧
      t.lastFailure = t'.lastFailure

/-- R193, first property, and R187: a first header within the range after the tag, and a compatible header exactly where its size
puts the next frame, is accepted. It holds for both probe modes and both end-of-source policies. -/
def Obligations.AdjacentFramesAccepted : Prop :=
  ∀ (p : Params) (src : Memory) (k : Nat) (h1 h2 : HeaderRec),
    k < 16384 → HeaderAt src (skipTag src 0 + k) h1 →
    (∀ j : Nat, j < k → NoHeaderAt src (skipTag src 0 + j)) →
    HeaderAt src (skipTag src 0 + k + frameSizeFormula h1) h2 → headersMatch h2 h1 = true →
    detectVerdict p src = true

/-- R193, second and third properties, R181, R182: no header in the range is a rejection, a source of zero bytes among them; and
when the first header is followed, at its computed next offset, by a header that does not match, or by no header at any of the
seven offsets (a single frame), the detection is a rejection whatever stands further on. -/
def Obligations.SourcesRejected : Prop :=
  ∀ (p : Params) (src : Memory),
    (src.cells = [] → detectVerdict p src = false) ∧
    ((∀ k : Nat, k < 16384 → NoHeaderAt src (skipTag src 0 + k)) → detectVerdict p src = false) ∧
    (∀ (k : Nat) (h1 : HeaderRec), k < 16384 → HeaderAt src (skipTag src 0 + k) h1 →
      (∀ j : Nat, j < k → NoHeaderAt src (skipTag src 0 + j)) →
      ((∃ h2, HeaderAt src (skipTag src 0 + k + frameSizeFormula h1) h2 ∧ headersMatch h2 h1 = false) ∨
       (∀ j : Nat, j < 7 →
          NoHeaderAt src (skipTag src 0 + k + frameSizeFormula h1 + probePosition p.probeMode 0 j))) →
      detectVerdict p src = false)

/-- R189, which the spec derives: from IDLE with `start` the sequencer comes back to IDLE, and the state it is then in is the one
DETECT gives at the function level, register for register; only the ghost of a unit run alone (log 16) is DETECT's own. -/
def Obligations.SequencerAgreesWithDetect : Prop :=
  ∀ s : State, Steady s → s.phase = .idle → s.start = true →
    ∃ (k : Nat) (t : State), k ≤ 16393 ∧ runSteps k s = .next t ∧ t.phase = .idle ∧ t.done = true ∧
      t.verdict = detectVerdict s.params s.src ∧
      exec .detect { s with start := false, unitReq := none } =
        .next { t with unitResult := some (.bit t.verdict) }

/-- R190, R165, R186, R238 (derived by the spec from R188): a detection makes at most 16392 reads, one per step after the start
step; until it ends the block is busy and shows no verdict. The lower bound, `4 ≤ k`, is no rule's: it rests on the model's
choice not to take R163's shortcut (log 13), under which an empty source ends at `k = 3`. -/
def Obligations.DetectionWorkBound : Prop :=
  ∀ s : State, Steady s → s.phase = .idle → s.start = true →
    ∃ (k : Nat) (t : State), 4 ≤ k ∧ k ≤ 16393 ∧ runSteps k s = .next t ∧ t.phase = .idle ∧ t.busy = false ∧
      t.done = true ∧ t.reads + 1 = k ∧
      ∀ j : Nat, 0 < j → j < k →
        ∃ u, runSteps j s = .next u ∧ u.phase ≠ .idle ∧ u.busy = true ∧ u.done = false ∧ u.verdict = false ∧
          u.reads + 1 = j

/-! ### The sequencer, step by step -/

/-- Rows IDLE of R188, R186, R215 (decision D2): without a start, and with no unit requested (log 3), nothing changes; a start
begins a detection. -/
def Obligations.IdleHoldsOrStarts : Prop :=
  ∀ s : State, s.rst = false → s.phase = .idle →
    (s.start = false → s.unitReq = none → step s = .next s) ∧
    (s.start = true →
      step s =
        .next { s with
          busy := true, done := false, verdict := false, hbValid := false, findsub := true, exact := false
          phase := .tag, start := false, unitReq := none, lastFailure := none, reads := 0 })

/-- Row TAG of R188, R60, R231 (decision D2): the one read of ten bytes at offset 0. That `origin` takes the new `pc`, SKIPTAG(0),
is DEDUCED from R23 and R155 (log 25). -/
def Obligations.TagStepProbesOffsetZero : Prop :=
  ∀ s : State, Steady s → s.phase = .tag →
    ∃ k, step s =
      .next { s with
        pc := BitVec.ofNat 32 (skipTag s.src 0), origin := BitVec.ofNat 32 (skipTag s.src 0), n := 0, stepReg := 1
        t := tagLatched (memRead s.src 0 10) s.t
        port := { reqValid := true, reqAddr := 0, reqLen := true, rsp := tagResponse (memRead s.src 0 10) }
        phase := .scan1, start := false, unitReq := none, lastFailure := k, reads := s.reads + 1 }

/-- Rows SCAN1, Miss, of R188 (decision D2), for every kind of miss: Short, no candidate, a candidate that does not decode. That
a Short read is one more failed attempt is decision D16 (R162); that the scan then goes on, where R163 lets an implementation end
it, is the model's choice (log 13, DESIGN CHOICE). -/
def Obligations.ForwardScanStepMisses : Prop :=
  ∀ s : State, Steady s → s.phase = .scan1 → NoHeaderAt s.src s.pc.toNat →
    ∃ k,
      (s.n.toNat + 1 < 16384 →
        step s =
          .next { s with
            n := s.n + 1, pc := s.pc + 1
            w := wordLatched (memRead s.src s.pc.toNat 4) s.w
            port :=
              { reqValid := true, reqAddr := s.pc, reqLen := false, rsp := wordResponse (memRead s.src s.pc.toNat 4) }
            start := false, unitReq := none, lastFailure := k, reads := s.reads + 1 }) ∧
      (16384 ≤ s.n.toNat + 1 →
        step s =
          .next { s with
            n := s.n + 1, verdict := false, done := true, busy := false, phase := .idle
            w := wordLatched (memRead s.src s.pc.toNat 4) s.w
            port :=
              { reqValid := true, reqAddr := s.pc, reqLen := false, rsp := wordResponse (memRead s.src s.pc.toNat 4) }
            start := false, unitReq := none, lastFailure := some .scanExhausted, reads := s.reads + 1 })

/-- Row SCAN1, Hit, of R188, R177 (decision D2). -/
def Obligations.ForwardScanStepHits : Prop :=
  ∀ (s : State) (b0 b1 b2 b3 : Byte) (h : HeaderRec), Steady s → s.phase = .scan1 →
    BytesAt s.src s.pc.toNat b0 b1 b2 b3 → isCandidate b0 b1 b2 = true →
    decodeWord (wordOfBytes b0 b1 b2 b3) = .ok h →
    step s =
      .next { s with
        w := wordOfBytes b0 b1 b2 b3, hc := h, fsize := BitVec.ofNat 12 (frameSizeFormula h), hb := h, hbValid := true
        pc := s.pc + BitVec.ofNat 32 (frameSizeFormula h), origin := s.pc + BitVec.ofNat 32 (frameSizeFormula h)
        exact := true, findsub := false, stepReg := 1, phase := .scan2
        port := { reqValid := true, reqAddr := s.pc, reqLen := false, rsp := .word (wordOfBytes b0 b1 b2 b3) }
        start := false, unitReq := none, lastFailure := none, reads := s.reads + 1 }

/-- Rows SCAN2, Miss, of R188 (decisions D2, D8, D16): the probe of R161 from the cursor or from the origin, the end after
`step > 6`, and, under `stop_at_once` only, the end at a Short read. -/
def Obligations.ExactScanStepMisses : Prop :=
  ∀ s : State, Steady s → s.phase = .scan2 → NoHeaderAt s.src s.pc.toNat →
    ((6 < s.stepReg.toNat ∨ (s.params.eosPolicy = .stopAtOnce ∧ memRead s.src s.pc.toNat 4 = .short)) →
      step s =
        .next { s with
          verdict := false, done := true, busy := false, phase := .idle
          w := wordLatched (memRead s.src s.pc.toNat 4) s.w
          port :=
            { reqValid := true, reqAddr := s.pc, reqLen := false, rsp := wordResponse (memRead s.src s.pc.toNat 4) }
          start := false, unitReq := none, lastFailure := some .scanExhausted, reads := s.reads + 1 }) ∧
    (s.stepReg.toNat ≤ 6 → ¬ (s.params.eosPolicy = .stopAtOnce ∧ memRead s.src s.pc.toNat 4 = .short) →
      ∃ k, step s =
        .next { s with
          pc :=
            probeBase s.params.probeMode s.origin s.pc +
            (if s.stepReg.toNat % 2 = 1 then s.stepReg.setWidth 32 else - s.stepReg.setWidth 32)
          stepReg := s.stepReg + 1
          w := wordLatched (memRead s.src s.pc.toNat 4) s.w
          port :=
            { reqValid := true, reqAddr := s.pc, reqLen := false, rsp := wordResponse (memRead s.src s.pc.toNat 4) }
          start := false, unitReq := none, lastFailure := k, reads := s.reads + 1 })

/-- Rows SCAN2, Hit, of R188, R158 (decision D2): MATCH against the baseline decides the verdict. -/
def Obligations.ExactScanStepHits : Prop :=
  ∀ (s : State) (b0 b1 b2 b3 : Byte) (h : HeaderRec), Steady s → s.phase = .scan2 → validRecord s.hb = true →
    BytesAt s.src s.pc.toNat b0 b1 b2 b3 → isCandidate b0 b1 b2 = true →
    decodeWord (wordOfBytes b0 b1 b2 b3) = .ok h →
    (headersMatch h s.hb = true →
      step s =
        .next { s with
          w := wordOfBytes b0 b1 b2 b3, hc := h, fsize := BitVec.ofNat 12 (frameSizeFormula h)
          verdict := true, done := true, busy := false, phase := .idle
          port := { reqValid := true, reqAddr := s.pc, reqLen := false, rsp := .word (wordOfBytes b0 b1 b2 b3) }
          start := false, unitReq := none, lastFailure := none, reads := s.reads + 1 }) ∧
    (headersMatch h s.hb = false →
      step s =
        .next { s with
          w := wordOfBytes b0 b1 b2 b3, hc := h
          verdict := false, done := true, busy := false, phase := .idle
          port := { reqValid := true, reqAddr := s.pc, reqLen := false, rsp := .word (wordOfBytes b0 b1 b2 b3) }
          start := false, unitReq := none, lastFailure := some .chainMismatch, reads := s.reads + 1 })

/-- R28 (decision D2): the legal transitions, and a phase kept while the source does not answer (R239, log 17). A unit run alone
stays in IDLE (log 3). -/
def Obligations.LegalPhaseTransitions : Prop :=
  ∀ s t : State, s.rst = false → step s = .next t →
    match s.phase with
    | .idle => t.phase = .idle ∨ (t.phase = .tag ∧ s.start = true)
    | .tag => t.phase = .scan1 ∨ (t.phase = .tag ∧ s.srcAnswers = false)
    | .scan1 => t.phase = .scan1 ∨ t.phase = .scan2 ∨ (t.phase = .idle ∧ t.verdict = false)
    | .scan2 => t.phase = .scan2 ∨ t.phase = .idle

/-- R230, R37 (decision D11): a step with `rst` gives every register its reset value, in any phase, whatever the other inputs;
HC and HB are free values (log 7); the source stays. The model's own choices: `start` and `unitReq` are taken and the levels of
the environment stay (logs 2, 3, 17), the port is idle (log 19), the ghosts are cleared (log 16), the parameters stay (log 14). -/
def Obligations.ResetStep : Prop :=
  ∀ s : State, s.rst = true →
    ∃ (h1 h2 : HeaderRec) (c : Nat), step s =
      .next
        { pc := 0, origin := 0, n := 0, stepReg := 1, fsize := 0, w := 0, t := 0
          exact := false, findsub := false, hbValid := false, hc := h1, hb := h2
          phase := .idle, busy := false, done := false, verdict := false
          port := { reqValid := false, reqAddr := 0, reqLen := false, rsp := .none }
          src := s.src, params := s.params, start := false, rst := s.rst, srcAnswers := s.srcAnswers
          unitReq := none, unitResult := none, lastFailure := none, reads := 0, freeCount := c }

/-- R37 (decision D11): the values the spec gives for reset, in the model's state after reset. The last clause is no reset value
of the spec: the parameters stand in State at R6's defaults by the model's choice (log 14). -/
def Obligations.ResetValues : Prop :=
  State.reset.phase = .idle ∧ State.reset.busy = false ∧ State.reset.done = false ∧ State.reset.verdict = false ∧
  State.reset.pc = 0 ∧ State.reset.origin = 0 ∧ State.reset.n = 0 ∧ State.reset.stepReg = 1 ∧ State.reset.fsize = 0 ∧
  State.reset.w = 0 ∧ State.reset.t = 0 ∧ State.reset.exact = false ∧ State.reset.findsub = false ∧
  State.reset.hbValid = false ∧
  State.reset.params = { probeMode := .cumulative, eosPolicy := .failedAttempt }

/-- R239, R62, U7 (log 17): while the source does not answer, a reading phase holds its request and changes no register. -/
def Obligations.WaitsForTheSource : Prop :=
  ∀ s : State, s.rst = false → s.srcAnswers = false → s.phase ≠ .idle →
    step s =
      .next { s with
        port :=
          { reqValid := true
            reqAddr := if s.phase = .tag then 0 else s.pc
            reqLen := decide (s.phase = .tag)
            rsp := .none }
        start := false, unitReq := none }

/-! ### The rows of the table -/

/-- Row SCAN1, Hit, of R188 (decision D2), for HDR_MPEG1_L1, HDR_MPEG1_L2, HDR_MPEG1_L3, HDR_MPEG2_L1, HDR_MPEG2_L2,
HDR_MPEG2_L3, HDR_MPEG25_L1, HDR_MPEG25_L2 and HDR_MPEG25_L3, at every well-formed operand. -/
def Obligations.ValidRowsStartTheChain : Prop :=
  ∀ (i : Instr) (h : HeaderRec) (s : State), i.wellFormed = true → rowRecord i = some h → s.phase = .scan1 →
    exec i s =
      .next { s with
        hc := h, fsize := BitVec.ofNat 12 (frameSizeFormula h), hb := h, hbValid := true
        pc := s.pc + BitVec.ofNat 32 (frameSizeFormula h), origin := s.pc + BitVec.ofNat 32 (frameSizeFormula h)
        exact := true, findsub := false, stepReg := 1, phase := .scan2, lastFailure := none }

/-- Rows SCAN2, Hit, of R188 (decision D2), for the nine valid rows, at every well-formed operand. -/
def Obligations.ValidRowsDecideTheVerdict : Prop :=
  ∀ (i : Instr) (h : HeaderRec) (s : State), i.wellFormed = true → rowRecord i = some h → s.phase = .scan2 →
    validRecord s.hb = true →
    (headersMatch h s.hb = true →
      exec i s =
        .next { s with
          hc := h, fsize := BitVec.ofNat 12 (frameSizeFormula h), verdict := true, done := true, busy := false
          phase := .idle, lastFailure := none }) ∧
    (headersMatch h s.hb = false →
      exec i s =
        .next { s with
          hc := h, verdict := false, done := true, busy := false
          phase := .idle, lastFailure := some .chainMismatch })

/-- Rows SCAN1 and SCAN2, Miss, of R188, R207 (decision D2), for the twenty-two HDR_REJECT rows, at every operand. -/
def Obligations.RejectRowsFailTheAttempt : Prop :=
  ∀ (i : Instr) (k : Option FailureKind) (s : State), rejectKind i = some k →
    (s.phase = .scan1 → s.n.toNat + 1 < 16384 →
      exec i s = .next { s with n := s.n + 1, pc := s.pc + 1, lastFailure := k }) ∧
    (s.phase = .scan1 → 16384 ≤ s.n.toNat + 1 →
      exec i s =
        .next { s with
          n := s.n + 1, verdict := false, done := true, busy := false
          phase := .idle, lastFailure := some .scanExhausted }) ∧
    (s.phase = .scan2 → s.stepReg.toNat ≤ 6 →
      exec i s =
        .next { s with
          pc :=
            probeBase s.params.probeMode s.origin s.pc +
            (if s.stepReg.toNat % 2 = 1 then s.stepReg.setWidth 32 else - s.stepReg.setWidth 32)
          stepReg := s.stepReg + 1
          lastFailure := k }) ∧
    (s.phase = .scan2 → 6 < s.stepReg.toNat →
      exec i s =
        .next { s with
          verdict := false, done := true, busy := false
          phase := .idle, lastFailure := some .scanExhausted })

/-- The header rows outside a scan, where no step fetches them: the model's choice (log 6), DECODE's effect on HC for the valid
rows and none for the reject rows. -/
def Obligations.HeaderRowsOutsideAScan : Prop :=
  ∀ (i : Instr) (s : State), s.phase = .idle ∨ s.phase = .tag →
    (∀ h, rowRecord i = some h → exec i s = .next { s with hc := h, lastFailure := none }) ∧
    (∀ k, rejectKind i = some k → exec i s = .next { s with lastFailure := k })

/-- A step runs the row that the bytes of its fetch decode to: four bytes at `pc` in a scan, ten bytes at 0 in TAG (R70, R62), and
in IDLE the unit code that is requested alone (log 3). What the step adds is stated: `W` or `T`, the port, the count of reads,
and the inputs taken. -/
def Obligations.StepRunsTheDecodedRow : Prop :=
  (∀ (s : State) (bs : List Byte) (i : Instr), Steady s → s.phase = .scan1 ∨ s.phase = .scan2 →
    memRead s.src s.pc.toNat 4 = .bytes bs → Sys2Proof.decode .mpegHdr32 bs = .ok i →
    step s =
      exec i { s with
        w := wordOfList bs
        port := { reqValid := true, reqAddr := s.pc, reqLen := false, rsp := .word (wordOfList bs) }
        start := false, unitReq := none, reads := s.reads + 1 }) ∧
  (∀ (s : State) (bs : List Byte) (i : Instr), Steady s → s.phase = .tag →
    memRead s.src 0 10 = .bytes bs → Sys2Proof.decode .id3v2Hdr80 bs = .ok i →
    step s =
      exec i { s with
        t := tagOfList bs
        port := { reqValid := true, reqAddr := 0, reqLen := true, rsp := .tag (tagOfList bs) }
        start := false, unitReq := none, reads := s.reads + 1 }) ∧
  (∀ (s : State) (b : Byte) (i : Instr), s.rst = false → s.phase = .idle → s.start = false → s.unitReq = some b →
    Sys2Proof.decode .unitOp [b] = .ok i →
    step s = exec i { s with start := false, unitReq := none })

/-- R200: "Nothing is fatal/crashing". No row and no unit stops on any state, and a step stops only where a unit code that R87
leaves unassigned is requested in IDLE (log 21). -/
def Obligations.NothingIsFatal : Prop :=
  (∀ (i : Instr) (s : State), ∃ t, exec i s = .next t) ∧
  (∀ s : State,
    (∃ t, step s = .next t) ∨
    (∃ b : Byte, 7 ≤ b.toNat ∧ s.rst = false ∧ s.phase = .idle ∧ s.start = false ∧ s.unitReq = some b ∧
      step s = .refused (.unassignedUnit b)))

/-! ### The invariant -/

/-- Every step keeps the invariant: the source in its canonical form, the flags and counters R28 and R188 give each phase, the
cursor where R160, R161 and R177 put it, and the baseline valid in SCAN2. The clauses of SCAN1 about `origin` (`pc = origin + n`,
the bound of R152) rest on row TAG writing the new `pc` to it, DEDUCED (log 25). -/
def Obligations.StepKeepsPhaseInvariant : Prop :=
  ∀ s t : State, Inv s → step s = .next t → Inv t

/-- The state after reset meets the invariant; in IDLE it says nothing of the values that log 7 chose. -/
def Obligations.ResetMeetsPhaseInvariant : Prop := Inv State.reset

/-- R240, R170, which the spec derives: under the invariant (StepKeepsPhaseInvariant, log 25 with it) the bytes a scan step asks for end below
2^30, the cursor never wraps, and an exact-offset scan examines nothing below 21 (cumulative) or 18 (absolute). -/
def Obligations.CursorStaysInRange : Prop :=
  ∀ s : State, Inv s →
    (s.phase = .scan1 → s.pc.toNat + 3 ≤ 536870931 + 16383 + 3 ∧ (s.pc + 1).toNat = s.pc.toNat + 1) ∧
    (s.phase = .scan2 →
      s.pc.toNat + 3 ≤ 536890203 ∧ 18 ≤ s.pc.toNat ∧ (s.params.probeMode = .cumulative → 21 ≤ s.pc.toNat)) ∧
    (∀ (t : State) (b0 b1 b2 b3 : Byte) (h : HeaderRec), Steady s → s.phase = .scan1 →
      BytesAt s.src s.pc.toNat b0 b1 b2 b3 → isCandidate b0 b1 b2 = true →
      decodeWord (wordOfBytes b0 b1 b2 b3) = .ok h → step s = .next t →
      t.pc.toNat = s.pc.toNat + frameSizeFormula h)

end Statements
end

