-- ==== Sys2Proof/Laws/Decode.lean ====
section
/-! SUPPORT. Fields of words and words of fields: no field of an encoding is lost or moved. -/

namespace Sys2Proof

/-! ### Words and bytes -/

/-- Concatenation, as a number. -/
theorem append_toNat {m n : Nat} (x : BitVec m) (y : BitVec n) : (x ++ y).toNat = x.toNat * 2 ^ n + y.toNat := by
  rw [BitVec.toNat_append, ← Nat.shiftLeft_add_eq_or_of_lt y.isLt, Nat.shiftLeft_eq]

theorem wordOfBytes_toNat (b0 b1 b2 b3 : Byte) :
    (wordOfBytes b0 b1 b2 b3).toNat = b0.toNat * 2 ^ 24 + b1.toNat * 2 ^ 16 + b2.toNat * 2 ^ 8 + b3.toNat := by
  simp only [wordOfBytes, append_toNat]
  omega

theorem wordOfFields_toNat (v lr : BitVec 2) (f : HdrFields) :
    (wordOfFields v lr f).toNat =
      0x7FF * 2 ^ 21 + v.toNat * 2 ^ 19 + lr.toNat * 2 ^ 17 + f.prot.toNat * 2 ^ 16 + f.bitrate.toNat * 2 ^ 12 +
      f.srate.toNat * 2 ^ 10 + f.pad.toNat * 2 ^ 9 + f.priv.toNat * 2 ^ 8 + f.cmode.toNat * 2 ^ 6 +
      f.mext.toNat * 2 ^ 4 + f.copy.toNat * 2 ^ 3 + f.orig.toNat * 2 ^ 2 + f.emph.toNat := by
  simp only [wordOfFields, append_toNat]
  rw [show (0x7FF : BitVec 11).toNat = 2047 from rfl]
  omega

theorem flagsByte_toNat (a : BitVec 3) (footer : Bool) (b : BitVec 4) :
    (flagsByte a footer b).toNat = a.toNat * 2 ^ 5 + footer.toNat * 2 ^ 4 + b.toNat := by
  simp only [flagsByte, append_toNat, BitVec.toNat_ofBool]
  omega

theorem extract_toNat (w : Word) (lo n : Nat) : (w.extractLsb' lo n).toNat = w.toNat / 2 ^ lo % 2 ^ n := by
  simp [BitVec.extractLsb'_toNat, Nat.shiftRight_eq_div_pow]

/-! ### The fields of an encoded word -/

@[simp] theorem syncField_wordOfFields (v lr : BitVec 2) (f : HdrFields) :
    syncField (wordOfFields v lr f) = 0x7FF := by
  have := v.isLt
  have := lr.isLt
  have := f.prot.isLt
  have := f.bitrate.isLt
  have := f.srate.isLt
  have := f.pad.isLt
  have := f.priv.isLt
  have := f.cmode.isLt
  have := f.mext.isLt
  have := f.copy.isLt
  have := f.orig.isLt
  have := f.emph.isLt
  apply BitVec.eq_of_toNat_eq
  rw [show (0x7FF : BitVec 11).toNat = 2047 from rfl]
  simp only [syncField, extract_toNat, wordOfFields_toNat]
  omega

@[simp] theorem versionField_wordOfFields (v lr : BitVec 2) (f : HdrFields) :
    versionField (wordOfFields v lr f) = v := by
  have := v.isLt
  have := lr.isLt
  have := f.prot.isLt
  have := f.bitrate.isLt
  have := f.srate.isLt
  have := f.pad.isLt
  have := f.priv.isLt
  have := f.cmode.isLt
  have := f.mext.isLt
  have := f.copy.isLt
  have := f.orig.isLt
  have := f.emph.isLt
  apply BitVec.eq_of_toNat_eq
  simp only [versionField, extract_toNat, wordOfFields_toNat]
  omega

@[simp] theorem layerField_wordOfFields (v lr : BitVec 2) (f : HdrFields) :
    layerField (wordOfFields v lr f) = lr := by
  have := v.isLt
  have := lr.isLt
  have := f.prot.isLt
  have := f.bitrate.isLt
  have := f.srate.isLt
  have := f.pad.isLt
  have := f.priv.isLt
  have := f.cmode.isLt
  have := f.mext.isLt
  have := f.copy.isLt
  have := f.orig.isLt
  have := f.emph.isLt
  apply BitVec.eq_of_toNat_eq
  simp only [layerField, extract_toNat, wordOfFields_toNat]
  omega

@[simp] theorem fieldsOfWord_wordOfFields (v lr : BitVec 2) (f : HdrFields) :
    fieldsOfWord (wordOfFields v lr f) = f := by
  have := v.isLt
  have := lr.isLt
  have := f.prot.isLt
  have := f.bitrate.isLt
  have := f.srate.isLt
  have := f.pad.isLt
  have := f.priv.isLt
  have := f.cmode.isLt
  have := f.mext.isLt
  have := f.copy.isLt
  have := f.orig.isLt
  have := f.emph.isLt
  obtain ⟨prot, bitrate, srate, pad, priv, cmode, mext, copy, orig, emph⟩ := f
  simp only [fieldsOfWord, HdrFields.mk.injEq]
  refine ⟨?_, ?_, ?_, ?_, ?_, ?_, ?_, ?_, ?_, ?_⟩ <;>
    (apply BitVec.eq_of_toNat_eq; simp only [extract_toNat, wordOfFields_toNat]; omega)

/-! ### Bytes of a word -/

theorem wordOfBytes_of_word (w : Word) :
    wordOfBytes (w.extractLsb' 24 8) (w.extractLsb' 16 8) (w.extractLsb' 8 8) (w.extractLsb' 0 8) = w := by
  have := w.isLt
  apply BitVec.eq_of_toNat_eq
  simp only [wordOfBytes_toNat, extract_toNat]
  omega

theorem bytesOfWord_of_bytes (b0 b1 b2 b3 : Byte) : bytesOfWord (wordOfBytes b0 b1 b2 b3) = [b0, b1, b2, b3] := by
  have := b0.isLt
  have := b1.isLt
  have := b2.isLt
  have := b3.isLt
  simp only [bytesOfWord, List.cons.injEq, and_true]
  refine ⟨?_, ?_, ?_, ?_⟩ <;>
    (apply BitVec.eq_of_toNat_eq; simp only [extract_toNat, wordOfBytes_toNat]; omega)

/-- Decoding the bytes of a word is decoding the word. -/
theorem decode_bytesOfWord (w : Word) : decode .mpegHdr32 (bytesOfWord w) = decodeHeaderWord w := by
  simp only [decode, bytesOfWord, wordOfBytes_of_word]

/-- A field and what lies below it are the number below the field's upper end. -/
theorem field_step (n lo len : Nat) : n / 2 ^ lo % 2 ^ len * 2 ^ lo + n % 2 ^ lo = n % 2 ^ (lo + len) := by
  rw [Nat.pow_add, Nat.mod_mul, Nat.mul_comm]
  omega

/-- A word with sync is the word of its fields. -/
theorem wordOfFields_of_word {w : Word} (h : syncField w = 0x7FF) :
    wordOfFields (versionField w) (layerField w) (fieldsOfWord w) = w := by
  have hs : w.toNat / 2 ^ 21 % 2 ^ 11 = 2047 := by
    rw [← extract_toNat]
    exact congrArg BitVec.toNat h
  apply BitVec.eq_of_toNat_eq
  simp only [wordOfFields_toNat, versionField, layerField, fieldsOfWord, extract_toNat]
  generalize hn : w.toNat = n at hs
  have hlt : n % 2 ^ 32 = n := Nat.mod_eq_of_lt (hn ▸ w.isLt)
  have s0 := field_step n 0 2
  have s1 := field_step n 2 1
  have s2 := field_step n 3 1
  have s3 := field_step n 4 2
  have s4 := field_step n 6 2
  have s5 := field_step n 8 1
  have s6 := field_step n 9 1
  have s7 := field_step n 10 2
  have s8 := field_step n 12 4
  have s9 := field_step n 16 1
  have s10 := field_step n 17 2
  have s11 := field_step n 19 2
  have s12 := field_step n 21 11
  rw [hs] at s12
  have z : n % 2 ^ 0 = 0 := Nat.mod_one n
  linarith

end Sys2Proof
end

