-- ==== Sys2Proof/Laws/HeaderDecoder.lean ====
section
/-! SUPPORT. What DECODE, FSIZE and MATCH can do, said once: an Ok answer is the assembled record of clean fields, such a record
is valid, and its numbers are exact. -/

namespace Sys2Proof.Machine

/-! ### Tables -/

theorem bitrateBpsOf_bounds {v li : BitVec 2} {bi : BitVec 4} (hl : li ≠ 3) (h0 : bi ≠ 0) (h15 : bi ≠ 15) :
    8000 ≤ bitrateBpsOf v li bi ∧ bitrateBpsOf v li bi ≤ 448000 := by
  revert v li bi
  decide

theorem bitrateBpsOf_zero (v li : BitVec 2) : bitrateBpsOf v li 0 = 0 := by
  revert v li
  decide

theorem sampleRate_mem {v si : BitVec 2} (hv : v ≠ 1) (hs : si ≠ 3) : sampleRateTable v si ∈ sampleRateRow v := by
  revert v si
  decide

theorem sampleRate_lt (v si : BitVec 2) : sampleRateTable v si < 2 ^ 16 := by
  revert v si
  decide

theorem bitrateBpsOf_lt (v li : BitVec 2) (bi : BitVec 4) : bitrateBpsOf v li bi < 2 ^ 19 := by
  revert v li bi
  decide

/-! ### DECODE -/

/-- The conditions of R113 on the fields, after the version and the layer. -/
def fieldsOk (v li : BitVec 2) (f : HdrFields) : Prop :=
  v ≠ 1 ∧ li ≠ 3 ∧ f.bitrate ≠ 15 ∧ f.bitrate ≠ 0 ∧ f.srate ≠ 3 ∧ f.emph ≠ 2 ∧
  (li = 1 → v = 3 → allowedTable f.bitrate (f.cmode == 3) = true)

theorem layerIndex_eq_three (lr : BitVec 2) : layerIndex lr = 3 ↔ lr = 0 := by
  revert lr
  decide

/-- DECODE answers Ok exactly on fields that meet the conditions, with the assembled record. -/
theorem decodeWord_eq (w : Word) :
    (fieldsOk (versionField w) (layerIndex (layerField w)) (fieldsOfWord w) ∧
      decodeWord w = .ok (assembleHeader (versionField w) (layerIndex (layerField w)) (fieldsOfWord w))) ∨
    (¬ fieldsOk (versionField w) (layerIndex (layerField w)) (fieldsOfWord w) ∧ decodeWord w = .error .invalidHeader) := by
  have hl := layerIndex_eq_three (layerField w)
  unfold decodeWord fieldsOk
  dsimp only
  by_cases h1 : versionField w = 1
  · exact .inr ⟨fun h => h.1 h1, if_pos h1⟩
  rw [if_neg h1]
  by_cases h2 : layerField w = 0
  · exact .inr ⟨fun h => h.2.1 (hl.2 h2), if_pos h2⟩
  rw [if_neg h2]
  have h2' : layerIndex (layerField w) ≠ 3 := fun h => h2 (hl.1 h)
  by_cases h3 : (fieldsOfWord w).bitrate = 15
  · exact .inr ⟨fun h => h.2.2.1 h3, if_pos h3⟩
  rw [if_neg h3]
  by_cases h4 : (fieldsOfWord w).bitrate = 0
  · exact .inr ⟨fun h => h.2.2.2.1 h4, if_pos (by rw [h4]; exact bitrateBpsOf_zero ..)⟩
  have h4' := bitrateBpsOf_bounds (v := versionField w) h2' h4 h3
  rw [if_neg (by omega)]
  by_cases h5 : (fieldsOfWord w).srate = 3
  · exact .inr ⟨fun h => h.2.2.2.2.1 h5, if_pos h5⟩
  rw [if_neg h5]
  by_cases h6 : (fieldsOfWord w).emph = 2
  · exact .inr ⟨fun h => h.2.2.2.2.2.1 h6, if_pos h6⟩
  rw [if_neg h6]
  by_cases h7 : layerIndex (layerField w) = 1 ∧ versionField w = 3 ∧
      allowedTable (fieldsOfWord w).bitrate ((fieldsOfWord w).cmode == 3) = false
  · refine .inr ⟨fun h => ?_, if_pos h7⟩
    have h8 := h.2.2.2.2.2.2 h7.1 h7.2.1
    rw [h7.2.2] at h8
    cases h8
  · left
    refine ⟨⟨h1, h2', h3, h4, h5, h6, fun ha hb => ?_⟩, ?_⟩
    · by_contra hc
      exact h7 ⟨ha, hb, by simpa using hc⟩
    · exact if_neg h7

/-- An Ok answer is the assembled record of fields that meet the conditions. -/
theorem decodeWord_ok {w : Word} {h : HeaderRec} (hd : decodeWord w = .ok h) :
    fieldsOk (versionField w) (layerIndex (layerField w)) (fieldsOfWord w) ∧
    h = assembleHeader (versionField w) (layerIndex (layerField w)) (fieldsOfWord w) := by
  rcases decodeWord_eq w with ⟨hf, he⟩ | ⟨_, he⟩ <;> rw [he] at hd
  · exact ⟨hf, (Except.ok.inj hd).symm⟩
  · cases hd

/-! ### The assembled record -/

theorem assemble_bitrate (v li : BitVec 2) (f : HdrFields) :
    (assembleHeader v li f).bitrateBps.toNat = bitrateBpsOf v li f.bitrate := by
  simp only [assembleHeader, BitVec.toNat_ofNat]
  exact Nat.mod_eq_of_lt (bitrateBpsOf_lt ..)

theorem assemble_sampleRate (v li : BitVec 2) (f : HdrFields) :
    (assembleHeader v li f).sampleRateHz.toNat = sampleRateTable v f.srate := by
  simp only [assembleHeader, BitVec.toNat_ofNat]
  exact Nat.mod_eq_of_lt (sampleRate_lt ..)

/-- The record of fields that meet the conditions is valid. -/
theorem assemble_valid {v li : BitVec 2} {f : HdrFields} (hf : fieldsOk v li f) :
    validRecord (assembleHeader v li f) = true := by
  obtain ⟨h1, h2, h3, h4, h5, h6, h7⟩ := hf
  have hb := assemble_bitrate v li f
  have hs := assemble_sampleRate v li f
  have hm := sampleRate_mem h1 h5
  unfold validRecord
  rw [hb, hs]
  simp only [assembleHeader, isMono, Bool.and_eq_true, bne_iff_ne, beq_iff_eq, List.any_eq_true, Bool.or_eq_true,
    Bool.not_eq_true', ne_eq]
  refine ⟨⟨⟨⟨⟨⟨⟨⟨⟨⟨⟨h1, h2⟩, h4⟩, h3⟩, h6⟩, trivial⟩, trivial⟩, ⟨_, hm, rfl⟩⟩, trivial⟩, ?_⟩, trivial⟩, trivial⟩
  by_cases ha : li = 1 ∧ v = 3
  · exact .inr (h7 ha.1 ha.2)
  · left
    simp only [Bool.and_eq_false_iff, beq_eq_false_iff_ne]
    by_cases hl : li = 1
    · exact .inr fun hv => ha ⟨hl, hv⟩
    · exact .inl hl

/-- What DECODE answers is a valid record. -/
theorem decodeWord_valid {w : Word} {h : HeaderRec} (hd : decodeWord w = .ok h) : validRecord h = true := by
  obtain ⟨hf, rfl⟩ := decodeWord_ok hd
  exact assemble_valid hf

/-- The record of a well-formed valid row is valid. -/
theorem rowRecord_valid {i : Instr} {h : HeaderRec} (hw : i.wellFormed = true) (hi : rowRecord i = some h) :
    validRecord h = true := by
  cases i <;> simp only [rowRecord, Option.some.injEq, reduceCtorEq] at hi <;> subst hi <;>
    apply assemble_valid <;>
    simp only [Instr.wellFormed, HdrFields.clean, Bool.and_eq_true, bne_iff_ne, ne_eq] at hw
  case hdrMpeg1L2 f =>
    obtain ⟨⟨⟨⟨a, b⟩, c⟩, d⟩, e⟩ := hw
    refine ⟨by decide, by decide, a, b, c, d, fun _ _ => ?_⟩
    revert a e
    simp only [HdrFields.m1l2Disallowed]
    generalize f.bitrate = x
    generalize f.cmode = y
    revert x y
    decide
  all_goals
    obtain ⟨⟨⟨a, b⟩, c⟩, d⟩ := hw
    refine ⟨by decide, by decide, a, b, c, d, fun x y => ?_⟩
    first
    | exact absurd x (by decide)
    | exact absurd y (by decide)

/-! ### FSIZE and MATCH on valid records -/

theorem frameSize_valid {h : HeaderRec} (hv : validRecord h = true) : frameSize h = frameSizeFormula h := by
  simp [frameSize, hv]

theorem matchResult_valid {a b : HeaderRec} (ha : validRecord a = true) (hb : validRecord b = true) :
    matchResult a b = headersMatch a b := by
  simp [matchResult, ha, hb]

/-! ### Candidates and rows -/

/-- The candidate test on the fields of the word. -/
theorem isCandidate_fields (b0 b1 b2 b3 : Byte) :
    isCandidate b0 b1 b2 = true ↔
      syncField (wordOfBytes b0 b1 b2 b3) = 0x7FF ∧ (fieldsOfWord (wordOfBytes b0 b1 b2 b3)).bitrate ≠ 15 := by
  have h0 := b0.isLt
  have h1 := b1.isLt
  have h2 := b2.isLt
  have h3 := b3.isLt
  have e1 : (b1 &&& 0xE0 = 0xE0 ↔ b1.toNat / 32 = 7) := by revert b1; decide
  have e2 : (b2 &&& 0xF0 = 0xF0 ↔ b2.toNat / 16 = 15) := by revert b2; decide
  have e0 : b0 = 0xFF ↔ b0.toNat = 255 := by rw [← BitVec.toNat_inj]; rfl
  have s1 : syncField (wordOfBytes b0 b1 b2 b3) = 0x7FF ↔ b0.toNat = 255 ∧ b1.toNat / 32 = 7 := by
    rw [← BitVec.toNat_inj, show (0x7FF : BitVec 11).toNat = 2047 from rfl]
    simp only [syncField, extract_toNat, wordOfBytes_toNat]
    omega
  have s2 : (fieldsOfWord (wordOfBytes b0 b1 b2 b3)).bitrate = 15 ↔ b2.toNat / 16 = 15 := by
    rw [← BitVec.toNat_inj, show (15 : BitVec 4).toNat = 15 from rfl]
    simp only [fieldsOfWord, extract_toNat, wordOfBytes_toNat]
    omega
  simp only [isCandidate, Bool.and_eq_true, beq_iff_eq, bne_iff_ne, ne_eq, e0, e1, e2, s1, s2]

/-- The row of an MPEG1 Layer2 word is valid exactly when ALLOWED allows its cell. -/
theorem classifyMpeg1L2_record {f : HdrFields} (h15 : f.bitrate ≠ 15) :
    rowRecord (classifyMpeg1L2 f) =
      if allowedTable f.bitrate (f.cmode == 3) = true then some (assembleHeader 3 1 f) else none := by
  have hb : ∀ b : BitVec 4, b = 0 ∨ b = 1 ∨ b = 2 ∨ b = 3 ∨ b = 4 ∨ b = 5 ∨ b = 6 ∨ b = 7 ∨ b = 8 ∨ b = 9 ∨ b = 10 ∨
      b = 11 ∨ b = 12 ∨ b = 13 ∨ b = 14 ∨ b = 15 := by decide
  have hc : ∀ c : BitVec 2, c = 0 ∨ c = 1 ∨ c = 2 ∨ c = 3 := by decide
  unfold classifyMpeg1L2
  rcases hb f.bitrate with h | h | h | h | h | h | h | h | h | h | h | h | h | h | h | h <;>
    rcases hc f.cmode with h' | h' | h' | h' <;> rw [h, h'] <;>
    first | exact absurd h h15 | rfl

/-- The row of a word with sync is valid exactly when DECODE's conditions hold, with DECODE's record. -/
theorem classify_record {v lr : BitVec 2} {f : HdrFields} {h : HeaderRec} :
    rowRecord (classify v lr f) = some h ↔
      fieldsOk v (layerIndex lr) f ∧ h = assembleHeader v (layerIndex lr) f := by
  have hl := layerIndex_eq_three lr
  unfold classify fieldsOk
  by_cases c1 : f.bitrate = 15
  · simp [c1, rowRecord]
  rw [if_neg c1]
  by_cases c2 : v = 1
  · simp [c2, rowRecord]
  rw [if_neg c2]
  by_cases c3 : lr = 0
  · simp [c3, rowRecord, layerIndex]
  rw [if_neg c3]
  by_cases c4 : f.bitrate = 0
  · simp [c4, rowRecord]
  rw [if_neg c4]
  by_cases c5 : f.srate = 3
  · simp [c5, rowRecord]
  rw [if_neg c5]
  by_cases c6 : f.emph = 2
  · simp [c6, rowRecord]
  rw [if_neg c6]
  have hv : v = 3 ∨ v = 2 ∨ v = 0 := by revert v; decide
  have hr : lr = 3 ∨ lr = 2 ∨ lr = 1 := by revert lr; decide
  rcases hv with rfl | rfl | rfl <;> rcases hr with rfl | rfl | rfl
  case neg.inl.inr.inl =>
    have e : layerIndex 2 = 1 := by decide
    rw [if_pos rfl, if_neg (by decide), if_pos rfl, classifyMpeg1L2_record c1, e]
    by_cases ha : allowedTable f.bitrate (f.cmode == 3) = true
    · rw [if_pos ha]
      exact ⟨fun x => ⟨⟨by decide, by decide, c1, c4, c5, c6, fun _ _ => ha⟩, (Option.some.inj x).symm⟩,
        fun x => x.2 ▸ rfl⟩
    · rw [if_neg ha]
      exact ⟨fun x => absurd x (by simp), fun x => absurd (x.1.2.2.2.2.2.2 rfl rfl) ha⟩
  all_goals
    refine ⟨fun x => ⟨⟨by decide, by decide, c1, c4, c5, c6, fun a b => ?_⟩, (Option.some.inj x).symm⟩,
      fun x => x.2 ▸ rfl⟩
    first
    | exact absurd a (by decide)
    | exact absurd b (by decide)

end Sys2Proof.Machine
end

