-- ==== Sys2Proof/Laws/Memory.lean ====
section
/-! SUPPORT. The byte source: read after write, the canonical form is kept, and what a read can answer. -/

namespace Sys2Proof.Machine

/-! ### One cell -/

/-- Below the first listed address nothing is listed. -/
theorem lookupCell_below {lo hi a : Nat} {l : List Host.Cell} (h : cellsWf lo hi l = true) (ha : a < lo) :
    lookupCell l a = unlistedByte := by
  induction l generalizing lo with
  | nil => rfl
  | cons c r ih =>
    obtain ⟨b, v⟩ := c
    simp only [cellsWf, Bool.and_eq_true, decide_eq_true_eq] at h
    have hb : b ≠ a := by omega
    simp only [lookupCell, hb, if_false]
    exact ih h.2 (by omega)

theorem lookupCell_setCell_same {lo hi : Nat} (a : Nat) (v : Byte) {l : List Host.Cell}
    (h : cellsWf lo hi l = true) : lookupCell (setCell a v l) a = v := by
  induction l generalizing lo with
  | nil => by_cases hv : v = unlistedByte <;> simp [setCell, lookupCell, hv]
  | cons c r ih =>
    obtain ⟨b, x⟩ := c
    simp only [cellsWf, Bool.and_eq_true, decide_eq_true_eq] at h
    have hrest : ∀ a, a < b + 1 → lookupCell r a = unlistedByte := fun a => lookupCell_below h.2
    simp only [setCell]
    split
    · rename_i hab
      have hne : b ≠ a := by omega
      split
      · simp [lookupCell, hrest a (by omega), *]
      · simp [lookupCell]
    · split
      · rename_i hab
        split
        · simp [*]
        · simp [lookupCell]
      · rename_i hne
        have hne' : b ≠ a := fun e => hne e.symm
        simp [lookupCell, hne', ih h.2]

theorem lookupCell_setCell_other {a a' : Nat} (v : Byte) (l : List Host.Cell) (hne : a' ≠ a) :
    lookupCell (setCell a v l) a' = lookupCell l a' := by
  have hne' : a ≠ a' := fun e => hne e.symm
  induction l with
  | nil => by_cases hv : v = unlistedByte <;> simp [setCell, lookupCell, hv, hne']
  | cons c r ih =>
    obtain ⟨b, x⟩ := c
    simp only [setCell]
    split
    · split <;> simp [lookupCell, hne']
    · split
      · rename_i hab
        have hb : b ≠ a' := by omega
        split <;> simp [lookupCell, hb, hne']
      · simp [lookupCell, ih]

theorem cellsWf_mono {lo lo' hi hi' : Nat} {l : List Host.Cell} (h : cellsWf lo hi l = true) (hlo : lo' ≤ lo)
    (hhi : hi ≤ hi') : cellsWf lo' hi' l = true := by
  induction l generalizing lo lo' with
  | nil => rfl
  | cons c r ih =>
    obtain ⟨b, v⟩ := c
    simp only [cellsWf, Bool.and_eq_true, decide_eq_true_eq] at h ⊢
    exact ⟨⟨⟨by omega, by omega⟩, h.1.2⟩, ih h.2 (le_refl _)⟩

theorem setCell_wf {lo hi hi' a : Nat} (v : Byte) {l : List Host.Cell} (h : cellsWf lo hi l = true) (hlo : lo ≤ a)
    (ha : a < hi') (hhi : hi ≤ hi') : cellsWf lo hi' (setCell a v l) = true := by
  induction l generalizing lo with
  | nil =>
    simp only [setCell]
    split
    · rfl
    · simp_all [cellsWf]
  | cons c r ih =>
    obtain ⟨b, x⟩ := c
    have hc := cellsWf_mono h (le_refl _) hhi
    simp only [cellsWf, Bool.and_eq_true, decide_eq_true_eq] at h hc
    simp only [setCell]
    split
    · rename_i hab
      split
      · simp_all [cellsWf]
      · simp_all [cellsWf]
    · split
      · split
        · exact cellsWf_mono hc.2 (by omega) (le_refl _)
        · simp_all [cellsWf]
      · simp only [cellsWf, Bool.and_eq_true, decide_eq_true_eq]
        exact ⟨hc.1, ih h.2 (by omega)⟩

/-! ### The whole source -/

theorem setByte_wf {m : Memory} (a : Nat) (v : Byte) (h : m.wf = true) : (m.setByte a v).wf = true :=
  setCell_wf v h (Nat.zero_le _) (by simp [Memory.setByte]) (by simp [Memory.setByte])

theorem setBytes_wf {m : Memory} (a : Nat) (bs : List Byte) (h : m.wf = true) : (m.setBytes a bs).wf = true := by
  induction bs generalizing m a with
  | nil => exact h
  | cons v r ih => exact ih _ (setByte_wf a v h)

theorem reset_src_wf : State.reset.src.wf = true := rfl

theorem byteAt_setByte_same {m : Memory} (a : Nat) (v : Byte) (h : m.wf = true) : (m.setByte a v).byteAt a = v :=
  lookupCell_setCell_same a v h

theorem byteAt_setByte_other {m : Memory} {a a' : Nat} (v : Byte) (hne : a' ≠ a) :
    (m.setByte a v).byteAt a' = m.byteAt a' :=
  lookupCell_setCell_other v _ hne

theorem readByte_setByte_same {m : Memory} (a : Nat) (v : Byte) (h : m.wf = true) :
    (m.setByte a v).readByte a = some v := by
  have hlt : a < (m.setByte a v).len := by simp [Memory.setByte]
  simp [Memory.readByte, hlt, byteAt_setByte_same a v h]

/-! ### Reads -/

@[simp] theorem slice_length (m : Memory) (a n : Nat) : (m.slice a n).length = n := by
  induction n generalizing a with
  | zero => rfl
  | succ n ih => simp [Memory.slice, ih]

theorem slice_getElem? (m : Memory) (a n k : Nat) (hk : k < n) : (m.slice a n)[k]? = some (m.byteAt (a + k)) := by
  induction n generalizing a k with
  | zero => omega
  | succ n ih =>
    cases k with
    | zero => simp [Memory.slice]
    | succ k =>
      simp only [Memory.slice, List.getElem?_cons_succ]
      rw [ih (a + 1) k (by omega)]
      congr 2
      omega

theorem slice_four (m : Memory) (a : Nat) :
    m.slice a 4 = [m.byteAt a, m.byteAt (a + 1), m.byteAt (a + 2), m.byteAt (a + 3)] := rfl

theorem slice_ten (m : Memory) (a : Nat) :
    m.slice a 10 =
      [m.byteAt a, m.byteAt (a + 1), m.byteAt (a + 2), m.byteAt (a + 3), m.byteAt (a + 4), m.byteAt (a + 5),
        m.byteAt (a + 6), m.byteAt (a + 7), m.byteAt (a + 8), m.byteAt (a + 9)] := rfl

/-- Everything a read can answer (R52). -/
theorem memRead_cases (m : Memory) (a n : Nat) :
    (a + n ≤ m.len ∧ memRead m a n = .bytes (m.slice a n)) ∨ (m.len < a + n ∧ memRead m a n = .short) := by
  unfold memRead
  split
  · exact .inl ⟨‹_›, rfl⟩
  · exact .inr ⟨by omega, rfl⟩

theorem memRead_bytes_length {m : Memory} {a n : Nat} {bs : List Byte} (h : memRead m a n = .bytes bs) :
    bs.length = n := by
  obtain ⟨-, e⟩ | ⟨-, e⟩ := memRead_cases m a n <;> rw [e] at h <;> cases h
  exact slice_length m a n

theorem memRead_four {m : Memory} {a : Nat} {bs : List Byte} (h : memRead m a 4 = .bytes bs) :
    ∃ b0 b1 b2 b3, bs = [b0, b1, b2, b3] := by
  match bs, memRead_bytes_length h with
  | [b0, b1, b2, b3], _ => exact ⟨b0, b1, b2, b3, rfl⟩

theorem memRead_short_mono {m : Memory} {a a' n : Nat} (h : memRead m a n = .short) (ha : a ≤ a') :
    memRead m a' n = .short := by
  obtain ⟨-, e⟩ | ⟨hlt, -⟩ := memRead_cases m a n
  · rw [e] at h; cases h
  · obtain ⟨hle, -⟩ | ⟨-, e⟩ := memRead_cases m a' n
    · omega
    · exact e

end Sys2Proof.Machine
end

