-- ==== Sys2Proof/Laws/State.lean ====
section
/-! SUPPORT. One lemma per field per state update of the model, true by rfl, so that no proof unfolds a record update. -/

namespace Sys2Proof.Machine

variable (s : State)

/-! ### flagsFirstFrame -/

@[simp] theorem flagsFirstFrame_pc : (flagsFirstFrame s).pc = s.pc := rfl
@[simp] theorem flagsFirstFrame_origin : (flagsFirstFrame s).origin = s.origin := rfl
@[simp] theorem flagsFirstFrame_n : (flagsFirstFrame s).n = s.n := rfl
@[simp] theorem flagsFirstFrame_stepReg : (flagsFirstFrame s).stepReg = s.stepReg := rfl
@[simp] theorem flagsFirstFrame_fsize : (flagsFirstFrame s).fsize = s.fsize := rfl
@[simp] theorem flagsFirstFrame_w : (flagsFirstFrame s).w = s.w := rfl
@[simp] theorem flagsFirstFrame_t : (flagsFirstFrame s).t = s.t := rfl
@[simp] theorem flagsFirstFrame_exact : (flagsFirstFrame s).exact = false := rfl
@[simp] theorem flagsFirstFrame_findsub : (flagsFirstFrame s).findsub = true := rfl
@[simp] theorem flagsFirstFrame_hbValid : (flagsFirstFrame s).hbValid = false := rfl
@[simp] theorem flagsFirstFrame_hc : (flagsFirstFrame s).hc = s.hc := rfl
@[simp] theorem flagsFirstFrame_hb : (flagsFirstFrame s).hb = s.hb := rfl
@[simp] theorem flagsFirstFrame_phase : (flagsFirstFrame s).phase = s.phase := rfl
@[simp] theorem flagsFirstFrame_busy : (flagsFirstFrame s).busy = s.busy := rfl
@[simp] theorem flagsFirstFrame_done : (flagsFirstFrame s).done = s.done := rfl
@[simp] theorem flagsFirstFrame_verdict : (flagsFirstFrame s).verdict = s.verdict := rfl
@[simp] theorem flagsFirstFrame_port : (flagsFirstFrame s).port = s.port := rfl
@[simp] theorem flagsFirstFrame_src : (flagsFirstFrame s).src = s.src := rfl
@[simp] theorem flagsFirstFrame_params : (flagsFirstFrame s).params = s.params := rfl
@[simp] theorem flagsFirstFrame_start : (flagsFirstFrame s).start = s.start := rfl
@[simp] theorem flagsFirstFrame_rst : (flagsFirstFrame s).rst = s.rst := rfl
@[simp] theorem flagsFirstFrame_srcAnswers : (flagsFirstFrame s).srcAnswers = s.srcAnswers := rfl
@[simp] theorem flagsFirstFrame_unitReq : (flagsFirstFrame s).unitReq = s.unitReq := rfl
@[simp] theorem flagsFirstFrame_unitResult : (flagsFirstFrame s).unitResult = s.unitResult := rfl
@[simp] theorem flagsFirstFrame_lastFailure : (flagsFirstFrame s).lastFailure = s.lastFailure := rfl
@[simp] theorem flagsFirstFrame_reads : (flagsFirstFrame s).reads = s.reads := rfl
@[simp] theorem flagsFirstFrame_freeCount : (flagsFirstFrame s).freeCount = s.freeCount := rfl

/-! ### flagsSecondFrame -/

@[simp] theorem flagsSecondFrame_pc : (flagsSecondFrame s).pc = s.pc := rfl
@[simp] theorem flagsSecondFrame_origin : (flagsSecondFrame s).origin = s.origin := rfl
@[simp] theorem flagsSecondFrame_n : (flagsSecondFrame s).n = s.n := rfl
@[simp] theorem flagsSecondFrame_stepReg : (flagsSecondFrame s).stepReg = s.stepReg := rfl
@[simp] theorem flagsSecondFrame_fsize : (flagsSecondFrame s).fsize = s.fsize := rfl
@[simp] theorem flagsSecondFrame_w : (flagsSecondFrame s).w = s.w := rfl
@[simp] theorem flagsSecondFrame_t : (flagsSecondFrame s).t = s.t := rfl
@[simp] theorem flagsSecondFrame_exact : (flagsSecondFrame s).exact = true := rfl
@[simp] theorem flagsSecondFrame_findsub : (flagsSecondFrame s).findsub = false := rfl
@[simp] theorem flagsSecondFrame_hbValid : (flagsSecondFrame s).hbValid = true := rfl
@[simp] theorem flagsSecondFrame_hc : (flagsSecondFrame s).hc = s.hc := rfl
@[simp] theorem flagsSecondFrame_hb : (flagsSecondFrame s).hb = s.hb := rfl
@[simp] theorem flagsSecondFrame_phase : (flagsSecondFrame s).phase = s.phase := rfl
@[simp] theorem flagsSecondFrame_busy : (flagsSecondFrame s).busy = s.busy := rfl
@[simp] theorem flagsSecondFrame_done : (flagsSecondFrame s).done = s.done := rfl
@[simp] theorem flagsSecondFrame_verdict : (flagsSecondFrame s).verdict = s.verdict := rfl
@[simp] theorem flagsSecondFrame_port : (flagsSecondFrame s).port = s.port := rfl
@[simp] theorem flagsSecondFrame_src : (flagsSecondFrame s).src = s.src := rfl
@[simp] theorem flagsSecondFrame_params : (flagsSecondFrame s).params = s.params := rfl
@[simp] theorem flagsSecondFrame_start : (flagsSecondFrame s).start = s.start := rfl
@[simp] theorem flagsSecondFrame_rst : (flagsSecondFrame s).rst = s.rst := rfl
@[simp] theorem flagsSecondFrame_srcAnswers : (flagsSecondFrame s).srcAnswers = s.srcAnswers := rfl
@[simp] theorem flagsSecondFrame_unitReq : (flagsSecondFrame s).unitReq = s.unitReq := rfl
@[simp] theorem flagsSecondFrame_unitResult : (flagsSecondFrame s).unitResult = s.unitResult := rfl
@[simp] theorem flagsSecondFrame_lastFailure : (flagsSecondFrame s).lastFailure = s.lastFailure := rfl
@[simp] theorem flagsSecondFrame_reads : (flagsSecondFrame s).reads = s.reads := rfl
@[simp] theorem flagsSecondFrame_freeCount : (flagsSecondFrame s).freeCount = s.freeCount := rfl

/-! ### statusStart -/

@[simp] theorem statusStart_pc : (statusStart s).pc = s.pc := rfl
@[simp] theorem statusStart_origin : (statusStart s).origin = s.origin := rfl
@[simp] theorem statusStart_n : (statusStart s).n = s.n := rfl
@[simp] theorem statusStart_stepReg : (statusStart s).stepReg = s.stepReg := rfl
@[simp] theorem statusStart_fsize : (statusStart s).fsize = s.fsize := rfl
@[simp] theorem statusStart_w : (statusStart s).w = s.w := rfl
@[simp] theorem statusStart_t : (statusStart s).t = s.t := rfl
@[simp] theorem statusStart_exact : (statusStart s).exact = s.exact := rfl
@[simp] theorem statusStart_findsub : (statusStart s).findsub = s.findsub := rfl
@[simp] theorem statusStart_hbValid : (statusStart s).hbValid = s.hbValid := rfl
@[simp] theorem statusStart_hc : (statusStart s).hc = s.hc := rfl
@[simp] theorem statusStart_hb : (statusStart s).hb = s.hb := rfl
@[simp] theorem statusStart_phase : (statusStart s).phase = s.phase := rfl
@[simp] theorem statusStart_busy : (statusStart s).busy = true := rfl
@[simp] theorem statusStart_done : (statusStart s).done = false := rfl
@[simp] theorem statusStart_verdict : (statusStart s).verdict = false := rfl
@[simp] theorem statusStart_port : (statusStart s).port = s.port := rfl
@[simp] theorem statusStart_src : (statusStart s).src = s.src := rfl
@[simp] theorem statusStart_params : (statusStart s).params = s.params := rfl
@[simp] theorem statusStart_start : (statusStart s).start = s.start := rfl
@[simp] theorem statusStart_rst : (statusStart s).rst = s.rst := rfl
@[simp] theorem statusStart_srcAnswers : (statusStart s).srcAnswers = s.srcAnswers := rfl
@[simp] theorem statusStart_unitReq : (statusStart s).unitReq = s.unitReq := rfl
@[simp] theorem statusStart_unitResult : (statusStart s).unitResult = s.unitResult := rfl
@[simp] theorem statusStart_lastFailure : (statusStart s).lastFailure = s.lastFailure := rfl
@[simp] theorem statusStart_reads : (statusStart s).reads = s.reads := rfl
@[simp] theorem statusStart_freeCount : (statusStart s).freeCount = s.freeCount := rfl

/-! ### statusFinish -/

@[simp] theorem statusFinish_pc (v : Bool) : (statusFinish v s).pc = s.pc := rfl
@[simp] theorem statusFinish_origin (v : Bool) : (statusFinish v s).origin = s.origin := rfl
@[simp] theorem statusFinish_n (v : Bool) : (statusFinish v s).n = s.n := rfl
@[simp] theorem statusFinish_stepReg (v : Bool) : (statusFinish v s).stepReg = s.stepReg := rfl
@[simp] theorem statusFinish_fsize (v : Bool) : (statusFinish v s).fsize = s.fsize := rfl
@[simp] theorem statusFinish_w (v : Bool) : (statusFinish v s).w = s.w := rfl
@[simp] theorem statusFinish_t (v : Bool) : (statusFinish v s).t = s.t := rfl
@[simp] theorem statusFinish_exact (v : Bool) : (statusFinish v s).exact = s.exact := rfl
@[simp] theorem statusFinish_findsub (v : Bool) : (statusFinish v s).findsub = s.findsub := rfl
@[simp] theorem statusFinish_hbValid (v : Bool) : (statusFinish v s).hbValid = s.hbValid := rfl
@[simp] theorem statusFinish_hc (v : Bool) : (statusFinish v s).hc = s.hc := rfl
@[simp] theorem statusFinish_hb (v : Bool) : (statusFinish v s).hb = s.hb := rfl
@[simp] theorem statusFinish_phase (v : Bool) : (statusFinish v s).phase = s.phase := rfl
@[simp] theorem statusFinish_busy (v : Bool) : (statusFinish v s).busy = false := rfl
@[simp] theorem statusFinish_done (v : Bool) : (statusFinish v s).done = true := rfl
@[simp] theorem statusFinish_verdict (v : Bool) : (statusFinish v s).verdict = v := rfl
@[simp] theorem statusFinish_port (v : Bool) : (statusFinish v s).port = s.port := rfl
@[simp] theorem statusFinish_src (v : Bool) : (statusFinish v s).src = s.src := rfl
@[simp] theorem statusFinish_params (v : Bool) : (statusFinish v s).params = s.params := rfl
@[simp] theorem statusFinish_start (v : Bool) : (statusFinish v s).start = s.start := rfl
@[simp] theorem statusFinish_rst (v : Bool) : (statusFinish v s).rst = s.rst := rfl
@[simp] theorem statusFinish_srcAnswers (v : Bool) : (statusFinish v s).srcAnswers = s.srcAnswers := rfl
@[simp] theorem statusFinish_unitReq (v : Bool) : (statusFinish v s).unitReq = s.unitReq := rfl
@[simp] theorem statusFinish_unitResult (v : Bool) : (statusFinish v s).unitResult = s.unitResult := rfl
@[simp] theorem statusFinish_lastFailure (v : Bool) : (statusFinish v s).lastFailure = s.lastFailure := rfl
@[simp] theorem statusFinish_reads (v : Bool) : (statusFinish v s).reads = s.reads := rfl
@[simp] theorem statusFinish_freeCount (v : Bool) : (statusFinish v s).freeCount = s.freeCount := rfl

/-! ### consumeInputs -/

@[simp] theorem consumeInputs_pc : (consumeInputs s).pc = s.pc := rfl
@[simp] theorem consumeInputs_origin : (consumeInputs s).origin = s.origin := rfl
@[simp] theorem consumeInputs_n : (consumeInputs s).n = s.n := rfl
@[simp] theorem consumeInputs_stepReg : (consumeInputs s).stepReg = s.stepReg := rfl
@[simp] theorem consumeInputs_fsize : (consumeInputs s).fsize = s.fsize := rfl
@[simp] theorem consumeInputs_w : (consumeInputs s).w = s.w := rfl
@[simp] theorem consumeInputs_t : (consumeInputs s).t = s.t := rfl
@[simp] theorem consumeInputs_exact : (consumeInputs s).exact = s.exact := rfl
@[simp] theorem consumeInputs_findsub : (consumeInputs s).findsub = s.findsub := rfl
@[simp] theorem consumeInputs_hbValid : (consumeInputs s).hbValid = s.hbValid := rfl
@[simp] theorem consumeInputs_hc : (consumeInputs s).hc = s.hc := rfl
@[simp] theorem consumeInputs_hb : (consumeInputs s).hb = s.hb := rfl
@[simp] theorem consumeInputs_phase : (consumeInputs s).phase = s.phase := rfl
@[simp] theorem consumeInputs_busy : (consumeInputs s).busy = s.busy := rfl
@[simp] theorem consumeInputs_done : (consumeInputs s).done = s.done := rfl
@[simp] theorem consumeInputs_verdict : (consumeInputs s).verdict = s.verdict := rfl
@[simp] theorem consumeInputs_port : (consumeInputs s).port = s.port := rfl
@[simp] theorem consumeInputs_src : (consumeInputs s).src = s.src := rfl
@[simp] theorem consumeInputs_params : (consumeInputs s).params = s.params := rfl
@[simp] theorem consumeInputs_start : (consumeInputs s).start = false := rfl
@[simp] theorem consumeInputs_rst : (consumeInputs s).rst = s.rst := rfl
@[simp] theorem consumeInputs_srcAnswers : (consumeInputs s).srcAnswers = s.srcAnswers := rfl
@[simp] theorem consumeInputs_unitReq : (consumeInputs s).unitReq = none := rfl
@[simp] theorem consumeInputs_unitResult : (consumeInputs s).unitResult = s.unitResult := rfl
@[simp] theorem consumeInputs_lastFailure : (consumeInputs s).lastFailure = s.lastFailure := rfl
@[simp] theorem consumeInputs_reads : (consumeInputs s).reads = s.reads := rfl
@[simp] theorem consumeInputs_freeCount : (consumeInputs s).freeCount = s.freeCount := rfl

/-! ### startDetection -/

@[simp] theorem startDetection_pc : (startDetection s).pc = s.pc := rfl
@[simp] theorem startDetection_origin : (startDetection s).origin = s.origin := rfl
@[simp] theorem startDetection_n : (startDetection s).n = s.n := rfl
@[simp] theorem startDetection_stepReg : (startDetection s).stepReg = s.stepReg := rfl
@[simp] theorem startDetection_fsize : (startDetection s).fsize = s.fsize := rfl
@[simp] theorem startDetection_w : (startDetection s).w = s.w := rfl
@[simp] theorem startDetection_t : (startDetection s).t = s.t := rfl
@[simp] theorem startDetection_exact : (startDetection s).exact = false := rfl
@[simp] theorem startDetection_findsub : (startDetection s).findsub = true := rfl
@[simp] theorem startDetection_hbValid : (startDetection s).hbValid = false := rfl
@[simp] theorem startDetection_hc : (startDetection s).hc = s.hc := rfl
@[simp] theorem startDetection_hb : (startDetection s).hb = s.hb := rfl
@[simp] theorem startDetection_phase : (startDetection s).phase = .tag := rfl
@[simp] theorem startDetection_busy : (startDetection s).busy = true := rfl
@[simp] theorem startDetection_done : (startDetection s).done = false := rfl
@[simp] theorem startDetection_verdict : (startDetection s).verdict = false := rfl
@[simp] theorem startDetection_port : (startDetection s).port = s.port := rfl
@[simp] theorem startDetection_src : (startDetection s).src = s.src := rfl
@[simp] theorem startDetection_params : (startDetection s).params = s.params := rfl
@[simp] theorem startDetection_start : (startDetection s).start = s.start := rfl
@[simp] theorem startDetection_rst : (startDetection s).rst = s.rst := rfl
@[simp] theorem startDetection_srcAnswers : (startDetection s).srcAnswers = s.srcAnswers := rfl
@[simp] theorem startDetection_unitReq : (startDetection s).unitReq = s.unitReq := rfl
@[simp] theorem startDetection_unitResult : (startDetection s).unitResult = s.unitResult := rfl
@[simp] theorem startDetection_lastFailure : (startDetection s).lastFailure = none := rfl
@[simp] theorem startDetection_reads : (startDetection s).reads = 0 := rfl
@[simp] theorem startDetection_freeCount : (startDetection s).freeCount = s.freeCount := rfl

/-! ### finishDetection -/

@[simp] theorem finishDetection_pc (v : Bool) (k : Option FailureKind) : (finishDetection v k s).pc = s.pc := rfl
@[simp] theorem finishDetection_origin (v : Bool) (k : Option FailureKind) : (finishDetection v k s).origin = s.origin := rfl
@[simp] theorem finishDetection_n (v : Bool) (k : Option FailureKind) : (finishDetection v k s).n = s.n := rfl
@[simp] theorem finishDetection_stepReg (v : Bool) (k : Option FailureKind) : (finishDetection v k s).stepReg = s.stepReg := rfl
@[simp] theorem finishDetection_fsize (v : Bool) (k : Option FailureKind) : (finishDetection v k s).fsize = s.fsize := rfl
@[simp] theorem finishDetection_w (v : Bool) (k : Option FailureKind) : (finishDetection v k s).w = s.w := rfl
@[simp] theorem finishDetection_t (v : Bool) (k : Option FailureKind) : (finishDetection v k s).t = s.t := rfl
@[simp] theorem finishDetection_exact (v : Bool) (k : Option FailureKind) : (finishDetection v k s).exact = s.exact := rfl
@[simp] theorem finishDetection_findsub (v : Bool) (k : Option FailureKind) : (finishDetection v k s).findsub = s.findsub := rfl
@[simp] theorem finishDetection_hbValid (v : Bool) (k : Option FailureKind) : (finishDetection v k s).hbValid = s.hbValid := rfl
@[simp] theorem finishDetection_hc (v : Bool) (k : Option FailureKind) : (finishDetection v k s).hc = s.hc := rfl
@[simp] theorem finishDetection_hb (v : Bool) (k : Option FailureKind) : (finishDetection v k s).hb = s.hb := rfl
@[simp] theorem finishDetection_phase (v : Bool) (k : Option FailureKind) : (finishDetection v k s).phase = .idle := rfl
@[simp] theorem finishDetection_busy (v : Bool) (k : Option FailureKind) : (finishDetection v k s).busy = false := rfl
@[simp] theorem finishDetection_done (v : Bool) (k : Option FailureKind) : (finishDetection v k s).done = true := rfl
@[simp] theorem finishDetection_verdict (v : Bool) (k : Option FailureKind) : (finishDetection v k s).verdict = v := rfl
@[simp] theorem finishDetection_port (v : Bool) (k : Option FailureKind) : (finishDetection v k s).port = s.port := rfl
@[simp] theorem finishDetection_src (v : Bool) (k : Option FailureKind) : (finishDetection v k s).src = s.src := rfl
@[simp] theorem finishDetection_params (v : Bool) (k : Option FailureKind) : (finishDetection v k s).params = s.params := rfl
@[simp] theorem finishDetection_start (v : Bool) (k : Option FailureKind) : (finishDetection v k s).start = s.start := rfl
@[simp] theorem finishDetection_rst (v : Bool) (k : Option FailureKind) : (finishDetection v k s).rst = s.rst := rfl
@[simp] theorem finishDetection_srcAnswers (v : Bool) (k : Option FailureKind) : (finishDetection v k s).srcAnswers = s.srcAnswers := rfl
@[simp] theorem finishDetection_unitReq (v : Bool) (k : Option FailureKind) : (finishDetection v k s).unitReq = s.unitReq := rfl
@[simp] theorem finishDetection_unitResult (v : Bool) (k : Option FailureKind) : (finishDetection v k s).unitResult = s.unitResult := rfl
@[simp] theorem finishDetection_lastFailure (v : Bool) (k : Option FailureKind) : (finishDetection v k s).lastFailure = k := rfl
@[simp] theorem finishDetection_reads (v : Bool) (k : Option FailureKind) : (finishDetection v k s).reads = s.reads := rfl
@[simp] theorem finishDetection_freeCount (v : Bool) (k : Option FailureKind) : (finishDetection v k s).freeCount = s.freeCount := rfl

/-! ### enterScan -/

@[simp] theorem enterScan_pc (off : Offset) : (enterScan off s).pc = off := rfl
@[simp] theorem enterScan_origin (off : Offset) : (enterScan off s).origin = off := rfl
@[simp] theorem enterScan_n (off : Offset) : (enterScan off s).n = 0 := rfl
@[simp] theorem enterScan_stepReg (off : Offset) : (enterScan off s).stepReg = 1 := rfl
@[simp] theorem enterScan_fsize (off : Offset) : (enterScan off s).fsize = s.fsize := rfl
@[simp] theorem enterScan_w (off : Offset) : (enterScan off s).w = s.w := rfl
@[simp] theorem enterScan_t (off : Offset) : (enterScan off s).t = s.t := rfl
@[simp] theorem enterScan_exact (off : Offset) : (enterScan off s).exact = s.exact := rfl
@[simp] theorem enterScan_findsub (off : Offset) : (enterScan off s).findsub = s.findsub := rfl
@[simp] theorem enterScan_hbValid (off : Offset) : (enterScan off s).hbValid = s.hbValid := rfl
@[simp] theorem enterScan_hc (off : Offset) : (enterScan off s).hc = s.hc := rfl
@[simp] theorem enterScan_hb (off : Offset) : (enterScan off s).hb = s.hb := rfl
@[simp] theorem enterScan_phase (off : Offset) : (enterScan off s).phase = s.phase := rfl
@[simp] theorem enterScan_busy (off : Offset) : (enterScan off s).busy = s.busy := rfl
@[simp] theorem enterScan_done (off : Offset) : (enterScan off s).done = s.done := rfl
@[simp] theorem enterScan_verdict (off : Offset) : (enterScan off s).verdict = s.verdict := rfl
@[simp] theorem enterScan_port (off : Offset) : (enterScan off s).port = s.port := rfl
@[simp] theorem enterScan_src (off : Offset) : (enterScan off s).src = s.src := rfl
@[simp] theorem enterScan_params (off : Offset) : (enterScan off s).params = s.params := rfl
@[simp] theorem enterScan_start (off : Offset) : (enterScan off s).start = s.start := rfl
@[simp] theorem enterScan_rst (off : Offset) : (enterScan off s).rst = s.rst := rfl
@[simp] theorem enterScan_srcAnswers (off : Offset) : (enterScan off s).srcAnswers = s.srcAnswers := rfl
@[simp] theorem enterScan_unitReq (off : Offset) : (enterScan off s).unitReq = s.unitReq := rfl
@[simp] theorem enterScan_unitResult (off : Offset) : (enterScan off s).unitResult = s.unitResult := rfl
@[simp] theorem enterScan_lastFailure (off : Offset) : (enterScan off s).lastFailure = s.lastFailure := rfl
@[simp] theorem enterScan_reads (off : Offset) : (enterScan off s).reads = s.reads := rfl
@[simp] theorem enterScan_freeCount (off : Offset) : (enterScan off s).freeCount = s.freeCount := rfl

/-! ### tagSkipped -/

@[simp] theorem tagSkipped_pc (o : Nat) (k : Option FailureKind) : (tagSkipped o k s).pc = BitVec.ofNat 32 o := rfl
@[simp] theorem tagSkipped_origin (o : Nat) (k : Option FailureKind) : (tagSkipped o k s).origin = BitVec.ofNat 32 o := rfl
@[simp] theorem tagSkipped_n (o : Nat) (k : Option FailureKind) : (tagSkipped o k s).n = 0 := rfl
@[simp] theorem tagSkipped_stepReg (o : Nat) (k : Option FailureKind) : (tagSkipped o k s).stepReg = 1 := rfl
@[simp] theorem tagSkipped_fsize (o : Nat) (k : Option FailureKind) : (tagSkipped o k s).fsize = s.fsize := rfl
@[simp] theorem tagSkipped_w (o : Nat) (k : Option FailureKind) : (tagSkipped o k s).w = s.w := rfl
@[simp] theorem tagSkipped_t (o : Nat) (k : Option FailureKind) : (tagSkipped o k s).t = s.t := rfl
@[simp] theorem tagSkipped_exact (o : Nat) (k : Option FailureKind) : (tagSkipped o k s).exact = s.exact := rfl
@[simp] theorem tagSkipped_findsub (o : Nat) (k : Option FailureKind) : (tagSkipped o k s).findsub = s.findsub := rfl
@[simp] theorem tagSkipped_hbValid (o : Nat) (k : Option FailureKind) : (tagSkipped o k s).hbValid = s.hbValid := rfl
@[simp] theorem tagSkipped_hc (o : Nat) (k : Option FailureKind) : (tagSkipped o k s).hc = s.hc := rfl
@[simp] theorem tagSkipped_hb (o : Nat) (k : Option FailureKind) : (tagSkipped o k s).hb = s.hb := rfl
@[simp] theorem tagSkipped_phase (o : Nat) (k : Option FailureKind) : (tagSkipped o k s).phase = .scan1 := rfl
@[simp] theorem tagSkipped_busy (o : Nat) (k : Option FailureKind) : (tagSkipped o k s).busy = s.busy := rfl
@[simp] theorem tagSkipped_done (o : Nat) (k : Option FailureKind) : (tagSkipped o k s).done = s.done := rfl
@[simp] theorem tagSkipped_verdict (o : Nat) (k : Option FailureKind) : (tagSkipped o k s).verdict = s.verdict := rfl
@[simp] theorem tagSkipped_port (o : Nat) (k : Option FailureKind) : (tagSkipped o k s).port = s.port := rfl
@[simp] theorem tagSkipped_src (o : Nat) (k : Option FailureKind) : (tagSkipped o k s).src = s.src := rfl
@[simp] theorem tagSkipped_params (o : Nat) (k : Option FailureKind) : (tagSkipped o k s).params = s.params := rfl
@[simp] theorem tagSkipped_start (o : Nat) (k : Option FailureKind) : (tagSkipped o k s).start = s.start := rfl
@[simp] theorem tagSkipped_rst (o : Nat) (k : Option FailureKind) : (tagSkipped o k s).rst = s.rst := rfl
@[simp] theorem tagSkipped_srcAnswers (o : Nat) (k : Option FailureKind) : (tagSkipped o k s).srcAnswers = s.srcAnswers := rfl
@[simp] theorem tagSkipped_unitReq (o : Nat) (k : Option FailureKind) : (tagSkipped o k s).unitReq = s.unitReq := rfl
@[simp] theorem tagSkipped_unitResult (o : Nat) (k : Option FailureKind) : (tagSkipped o k s).unitResult = s.unitResult := rfl
@[simp] theorem tagSkipped_lastFailure (o : Nat) (k : Option FailureKind) : (tagSkipped o k s).lastFailure = k := rfl
@[simp] theorem tagSkipped_reads (o : Nat) (k : Option FailureKind) : (tagSkipped o k s).reads = s.reads := rfl
@[simp] theorem tagSkipped_freeCount (o : Nat) (k : Option FailureKind) : (tagSkipped o k s).freeCount = s.freeCount := rfl

/-! ### chainStep -/

@[simp] theorem chainStep_pc (h : HeaderRec) (a : Offset) : (chainStep h a s).pc = a := rfl
@[simp] theorem chainStep_origin (h : HeaderRec) (a : Offset) : (chainStep h a s).origin = a := rfl
@[simp] theorem chainStep_n (h : HeaderRec) (a : Offset) : (chainStep h a s).n = s.n := rfl
@[simp] theorem chainStep_stepReg (h : HeaderRec) (a : Offset) : (chainStep h a s).stepReg = 1 := rfl
@[simp] theorem chainStep_fsize (h : HeaderRec) (a : Offset) : (chainStep h a s).fsize = s.fsize := rfl
@[simp] theorem chainStep_w (h : HeaderRec) (a : Offset) : (chainStep h a s).w = s.w := rfl
@[simp] theorem chainStep_t (h : HeaderRec) (a : Offset) : (chainStep h a s).t = s.t := rfl
@[simp] theorem chainStep_exact (h : HeaderRec) (a : Offset) : (chainStep h a s).exact = true := rfl
@[simp] theorem chainStep_findsub (h : HeaderRec) (a : Offset) : (chainStep h a s).findsub = false := rfl
@[simp] theorem chainStep_hbValid (h : HeaderRec) (a : Offset) : (chainStep h a s).hbValid = true := rfl
@[simp] theorem chainStep_hc (h : HeaderRec) (a : Offset) : (chainStep h a s).hc = s.hc := rfl
@[simp] theorem chainStep_hb (h : HeaderRec) (a : Offset) : (chainStep h a s).hb = h := rfl
@[simp] theorem chainStep_phase (h : HeaderRec) (a : Offset) : (chainStep h a s).phase = s.phase := rfl
@[simp] theorem chainStep_busy (h : HeaderRec) (a : Offset) : (chainStep h a s).busy = s.busy := rfl
@[simp] theorem chainStep_done (h : HeaderRec) (a : Offset) : (chainStep h a s).done = s.done := rfl
@[simp] theorem chainStep_verdict (h : HeaderRec) (a : Offset) : (chainStep h a s).verdict = s.verdict := rfl
@[simp] theorem chainStep_port (h : HeaderRec) (a : Offset) : (chainStep h a s).port = s.port := rfl
@[simp] theorem chainStep_src (h : HeaderRec) (a : Offset) : (chainStep h a s).src = s.src := rfl
@[simp] theorem chainStep_params (h : HeaderRec) (a : Offset) : (chainStep h a s).params = s.params := rfl
@[simp] theorem chainStep_start (h : HeaderRec) (a : Offset) : (chainStep h a s).start = s.start := rfl
@[simp] theorem chainStep_rst (h : HeaderRec) (a : Offset) : (chainStep h a s).rst = s.rst := rfl
@[simp] theorem chainStep_srcAnswers (h : HeaderRec) (a : Offset) : (chainStep h a s).srcAnswers = s.srcAnswers := rfl
@[simp] theorem chainStep_unitReq (h : HeaderRec) (a : Offset) : (chainStep h a s).unitReq = s.unitReq := rfl
@[simp] theorem chainStep_unitResult (h : HeaderRec) (a : Offset) : (chainStep h a s).unitResult = s.unitResult := rfl
@[simp] theorem chainStep_lastFailure (h : HeaderRec) (a : Offset) : (chainStep h a s).lastFailure = s.lastFailure := rfl
@[simp] theorem chainStep_reads (h : HeaderRec) (a : Offset) : (chainStep h a s).reads = s.reads := rfl
@[simp] theorem chainStep_freeCount (h : HeaderRec) (a : Offset) : (chainStep h a s).freeCount = s.freeCount := rfl

/-! ### reportUnit -/

@[simp] theorem reportUnit_pc (r : UnitResult) (k : Option FailureKind) : (reportUnit r k s).pc = s.pc := rfl
@[simp] theorem reportUnit_origin (r : UnitResult) (k : Option FailureKind) : (reportUnit r k s).origin = s.origin := rfl
@[simp] theorem reportUnit_n (r : UnitResult) (k : Option FailureKind) : (reportUnit r k s).n = s.n := rfl
@[simp] theorem reportUnit_stepReg (r : UnitResult) (k : Option FailureKind) : (reportUnit r k s).stepReg = s.stepReg := rfl
@[simp] theorem reportUnit_fsize (r : UnitResult) (k : Option FailureKind) : (reportUnit r k s).fsize = s.fsize := rfl
@[simp] theorem reportUnit_w (r : UnitResult) (k : Option FailureKind) : (reportUnit r k s).w = s.w := rfl
@[simp] theorem reportUnit_t (r : UnitResult) (k : Option FailureKind) : (reportUnit r k s).t = s.t := rfl
@[simp] theorem reportUnit_exact (r : UnitResult) (k : Option FailureKind) : (reportUnit r k s).exact = s.exact := rfl
@[simp] theorem reportUnit_findsub (r : UnitResult) (k : Option FailureKind) : (reportUnit r k s).findsub = s.findsub := rfl
@[simp] theorem reportUnit_hbValid (r : UnitResult) (k : Option FailureKind) : (reportUnit r k s).hbValid = s.hbValid := rfl
@[simp] theorem reportUnit_hc (r : UnitResult) (k : Option FailureKind) : (reportUnit r k s).hc = s.hc := rfl
@[simp] theorem reportUnit_hb (r : UnitResult) (k : Option FailureKind) : (reportUnit r k s).hb = s.hb := rfl
@[simp] theorem reportUnit_phase (r : UnitResult) (k : Option FailureKind) : (reportUnit r k s).phase = s.phase := rfl
@[simp] theorem reportUnit_busy (r : UnitResult) (k : Option FailureKind) : (reportUnit r k s).busy = s.busy := rfl
@[simp] theorem reportUnit_done (r : UnitResult) (k : Option FailureKind) : (reportUnit r k s).done = s.done := rfl
@[simp] theorem reportUnit_verdict (r : UnitResult) (k : Option FailureKind) : (reportUnit r k s).verdict = s.verdict := rfl
@[simp] theorem reportUnit_port (r : UnitResult) (k : Option FailureKind) : (reportUnit r k s).port = s.port := rfl
@[simp] theorem reportUnit_src (r : UnitResult) (k : Option FailureKind) : (reportUnit r k s).src = s.src := rfl
@[simp] theorem reportUnit_params (r : UnitResult) (k : Option FailureKind) : (reportUnit r k s).params = s.params := rfl
@[simp] theorem reportUnit_start (r : UnitResult) (k : Option FailureKind) : (reportUnit r k s).start = s.start := rfl
@[simp] theorem reportUnit_rst (r : UnitResult) (k : Option FailureKind) : (reportUnit r k s).rst = s.rst := rfl
@[simp] theorem reportUnit_srcAnswers (r : UnitResult) (k : Option FailureKind) : (reportUnit r k s).srcAnswers = s.srcAnswers := rfl
@[simp] theorem reportUnit_unitReq (r : UnitResult) (k : Option FailureKind) : (reportUnit r k s).unitReq = s.unitReq := rfl
@[simp] theorem reportUnit_unitResult (r : UnitResult) (k : Option FailureKind) : (reportUnit r k s).unitResult = some r := rfl
@[simp] theorem reportUnit_lastFailure (r : UnitResult) (k : Option FailureKind) : (reportUnit r k s).lastFailure = k := rfl
@[simp] theorem reportUnit_reads (r : UnitResult) (k : Option FailureKind) : (reportUnit r k s).reads = s.reads := rfl
@[simp] theorem reportUnit_freeCount (r : UnitResult) (k : Option FailureKind) : (reportUnit r k s).freeCount = s.freeCount := rfl

/-! ### latchWord -/

@[simp] theorem latchWord_pc (r : ReadResult) : (latchWord r s).pc = s.pc := rfl
@[simp] theorem latchWord_origin (r : ReadResult) : (latchWord r s).origin = s.origin := rfl
@[simp] theorem latchWord_n (r : ReadResult) : (latchWord r s).n = s.n := rfl
@[simp] theorem latchWord_stepReg (r : ReadResult) : (latchWord r s).stepReg = s.stepReg := rfl
@[simp] theorem latchWord_fsize (r : ReadResult) : (latchWord r s).fsize = s.fsize := rfl
@[simp] theorem latchWord_t (r : ReadResult) : (latchWord r s).t = s.t := rfl
@[simp] theorem latchWord_exact (r : ReadResult) : (latchWord r s).exact = s.exact := rfl
@[simp] theorem latchWord_findsub (r : ReadResult) : (latchWord r s).findsub = s.findsub := rfl
@[simp] theorem latchWord_hbValid (r : ReadResult) : (latchWord r s).hbValid = s.hbValid := rfl
@[simp] theorem latchWord_hc (r : ReadResult) : (latchWord r s).hc = s.hc := rfl
@[simp] theorem latchWord_hb (r : ReadResult) : (latchWord r s).hb = s.hb := rfl
@[simp] theorem latchWord_phase (r : ReadResult) : (latchWord r s).phase = s.phase := rfl
@[simp] theorem latchWord_busy (r : ReadResult) : (latchWord r s).busy = s.busy := rfl
@[simp] theorem latchWord_done (r : ReadResult) : (latchWord r s).done = s.done := rfl
@[simp] theorem latchWord_verdict (r : ReadResult) : (latchWord r s).verdict = s.verdict := rfl
@[simp] theorem latchWord_port (r : ReadResult) : (latchWord r s).port = wordPort s.pc r := rfl
@[simp] theorem latchWord_src (r : ReadResult) : (latchWord r s).src = s.src := rfl
@[simp] theorem latchWord_params (r : ReadResult) : (latchWord r s).params = s.params := rfl
@[simp] theorem latchWord_start (r : ReadResult) : (latchWord r s).start = s.start := rfl
@[simp] theorem latchWord_rst (r : ReadResult) : (latchWord r s).rst = s.rst := rfl
@[simp] theorem latchWord_srcAnswers (r : ReadResult) : (latchWord r s).srcAnswers = s.srcAnswers := rfl
@[simp] theorem latchWord_unitReq (r : ReadResult) : (latchWord r s).unitReq = s.unitReq := rfl
@[simp] theorem latchWord_unitResult (r : ReadResult) : (latchWord r s).unitResult = s.unitResult := rfl
@[simp] theorem latchWord_lastFailure (r : ReadResult) : (latchWord r s).lastFailure = s.lastFailure := rfl
@[simp] theorem latchWord_reads (r : ReadResult) : (latchWord r s).reads = s.reads + 1 := rfl
@[simp] theorem latchWord_freeCount (r : ReadResult) : (latchWord r s).freeCount = s.freeCount := rfl

/-! ### latchTag -/

@[simp] theorem latchTag_pc (a : Offset) (r : ReadResult) : (latchTag a r s).pc = s.pc := rfl
@[simp] theorem latchTag_origin (a : Offset) (r : ReadResult) : (latchTag a r s).origin = s.origin := rfl
@[simp] theorem latchTag_n (a : Offset) (r : ReadResult) : (latchTag a r s).n = s.n := rfl
@[simp] theorem latchTag_stepReg (a : Offset) (r : ReadResult) : (latchTag a r s).stepReg = s.stepReg := rfl
@[simp] theorem latchTag_fsize (a : Offset) (r : ReadResult) : (latchTag a r s).fsize = s.fsize := rfl
@[simp] theorem latchTag_w (a : Offset) (r : ReadResult) : (latchTag a r s).w = s.w := rfl
@[simp] theorem latchTag_exact (a : Offset) (r : ReadResult) : (latchTag a r s).exact = s.exact := rfl
@[simp] theorem latchTag_findsub (a : Offset) (r : ReadResult) : (latchTag a r s).findsub = s.findsub := rfl
@[simp] theorem latchTag_hbValid (a : Offset) (r : ReadResult) : (latchTag a r s).hbValid = s.hbValid := rfl
@[simp] theorem latchTag_hc (a : Offset) (r : ReadResult) : (latchTag a r s).hc = s.hc := rfl
@[simp] theorem latchTag_hb (a : Offset) (r : ReadResult) : (latchTag a r s).hb = s.hb := rfl
@[simp] theorem latchTag_phase (a : Offset) (r : ReadResult) : (latchTag a r s).phase = s.phase := rfl
@[simp] theorem latchTag_busy (a : Offset) (r : ReadResult) : (latchTag a r s).busy = s.busy := rfl
@[simp] theorem latchTag_done (a : Offset) (r : ReadResult) : (latchTag a r s).done = s.done := rfl
@[simp] theorem latchTag_verdict (a : Offset) (r : ReadResult) : (latchTag a r s).verdict = s.verdict := rfl
@[simp] theorem latchTag_port (a : Offset) (r : ReadResult) : (latchTag a r s).port = tagPort a r := rfl
@[simp] theorem latchTag_src (a : Offset) (r : ReadResult) : (latchTag a r s).src = s.src := rfl
@[simp] theorem latchTag_params (a : Offset) (r : ReadResult) : (latchTag a r s).params = s.params := rfl
@[simp] theorem latchTag_start (a : Offset) (r : ReadResult) : (latchTag a r s).start = s.start := rfl
@[simp] theorem latchTag_rst (a : Offset) (r : ReadResult) : (latchTag a r s).rst = s.rst := rfl
@[simp] theorem latchTag_srcAnswers (a : Offset) (r : ReadResult) : (latchTag a r s).srcAnswers = s.srcAnswers := rfl
@[simp] theorem latchTag_unitReq (a : Offset) (r : ReadResult) : (latchTag a r s).unitReq = s.unitReq := rfl
@[simp] theorem latchTag_unitResult (a : Offset) (r : ReadResult) : (latchTag a r s).unitResult = s.unitResult := rfl
@[simp] theorem latchTag_lastFailure (a : Offset) (r : ReadResult) : (latchTag a r s).lastFailure = s.lastFailure := rfl
@[simp] theorem latchTag_reads (a : Offset) (r : ReadResult) : (latchTag a r s).reads = s.reads + 1 := rfl
@[simp] theorem latchTag_freeCount (a : Offset) (r : ReadResult) : (latchTag a r s).freeCount = s.freeCount := rfl

/-! ### writeScan -/

@[simp] theorem writeScan_pc (r : ScanRun) : (writeScan r s).pc = BitVec.ofInt 32 r.cursor := rfl
@[simp] theorem writeScan_origin (r : ScanRun) : (writeScan r s).origin = BitVec.ofInt 32 r.origin := rfl
@[simp] theorem writeScan_n (r : ScanRun) : (writeScan r s).n = s.n := rfl
@[simp] theorem writeScan_stepReg (r : ScanRun) : (writeScan r s).stepReg = BitVec.ofNat 3 r.step := rfl
@[simp] theorem writeScan_fsize (r : ScanRun) : (writeScan r s).fsize = s.fsize := rfl
@[simp] theorem writeScan_w (r : ScanRun) : (writeScan r s).w = r.w.getD s.w := rfl
@[simp] theorem writeScan_t (r : ScanRun) : (writeScan r s).t = s.t := rfl
@[simp] theorem writeScan_exact (r : ScanRun) : (writeScan r s).exact = s.exact := rfl
@[simp] theorem writeScan_findsub (r : ScanRun) : (writeScan r s).findsub = s.findsub := rfl
@[simp] theorem writeScan_hbValid (r : ScanRun) : (writeScan r s).hbValid = s.hbValid := rfl
@[simp] theorem writeScan_hc (r : ScanRun) : (writeScan r s).hc = r.hc.getD s.hc := rfl
@[simp] theorem writeScan_hb (r : ScanRun) : (writeScan r s).hb = s.hb := rfl
@[simp] theorem writeScan_phase (r : ScanRun) : (writeScan r s).phase = s.phase := rfl
@[simp] theorem writeScan_busy (r : ScanRun) : (writeScan r s).busy = s.busy := rfl
@[simp] theorem writeScan_done (r : ScanRun) : (writeScan r s).done = s.done := rfl
@[simp] theorem writeScan_verdict (r : ScanRun) : (writeScan r s).verdict = s.verdict := rfl
@[simp] theorem writeScan_port (r : ScanRun) : (writeScan r s).port = r.port := rfl
@[simp] theorem writeScan_src (r : ScanRun) : (writeScan r s).src = s.src := rfl
@[simp] theorem writeScan_params (r : ScanRun) : (writeScan r s).params = s.params := rfl
@[simp] theorem writeScan_start (r : ScanRun) : (writeScan r s).start = s.start := rfl
@[simp] theorem writeScan_rst (r : ScanRun) : (writeScan r s).rst = s.rst := rfl
@[simp] theorem writeScan_srcAnswers (r : ScanRun) : (writeScan r s).srcAnswers = s.srcAnswers := rfl
@[simp] theorem writeScan_unitReq (r : ScanRun) : (writeScan r s).unitReq = s.unitReq := rfl
@[simp] theorem writeScan_unitResult (r : ScanRun) : (writeScan r s).unitResult = s.unitResult := rfl
@[simp] theorem writeScan_lastFailure (r : ScanRun) : (writeScan r s).lastFailure = s.lastFailure := rfl
@[simp] theorem writeScan_reads (r : ScanRun) : (writeScan r s).reads = s.reads + r.reads := rfl
@[simp] theorem writeScan_freeCount (r : ScanRun) : (writeScan r s).freeCount = s.freeCount := rfl

/-! ### waitForSource -/

@[simp] theorem waitForSource_pc : (waitForSource s).pc = s.pc := rfl
@[simp] theorem waitForSource_origin : (waitForSource s).origin = s.origin := rfl
@[simp] theorem waitForSource_n : (waitForSource s).n = s.n := rfl
@[simp] theorem waitForSource_stepReg : (waitForSource s).stepReg = s.stepReg := rfl
@[simp] theorem waitForSource_fsize : (waitForSource s).fsize = s.fsize := rfl
@[simp] theorem waitForSource_w : (waitForSource s).w = s.w := rfl
@[simp] theorem waitForSource_t : (waitForSource s).t = s.t := rfl
@[simp] theorem waitForSource_exact : (waitForSource s).exact = s.exact := rfl
@[simp] theorem waitForSource_findsub : (waitForSource s).findsub = s.findsub := rfl
@[simp] theorem waitForSource_hbValid : (waitForSource s).hbValid = s.hbValid := rfl
@[simp] theorem waitForSource_hc : (waitForSource s).hc = s.hc := rfl
@[simp] theorem waitForSource_hb : (waitForSource s).hb = s.hb := rfl
@[simp] theorem waitForSource_phase : (waitForSource s).phase = s.phase := rfl
@[simp] theorem waitForSource_busy : (waitForSource s).busy = s.busy := rfl
@[simp] theorem waitForSource_done : (waitForSource s).done = s.done := rfl
@[simp] theorem waitForSource_verdict : (waitForSource s).verdict = s.verdict := rfl
@[simp] theorem waitForSource_src : (waitForSource s).src = s.src := rfl
@[simp] theorem waitForSource_params : (waitForSource s).params = s.params := rfl
@[simp] theorem waitForSource_start : (waitForSource s).start = false := rfl
@[simp] theorem waitForSource_rst : (waitForSource s).rst = s.rst := rfl
@[simp] theorem waitForSource_srcAnswers : (waitForSource s).srcAnswers = s.srcAnswers := rfl
@[simp] theorem waitForSource_unitReq : (waitForSource s).unitReq = none := rfl
@[simp] theorem waitForSource_unitResult : (waitForSource s).unitResult = s.unitResult := rfl
@[simp] theorem waitForSource_lastFailure : (waitForSource s).lastFailure = s.lastFailure := rfl
@[simp] theorem waitForSource_reads : (waitForSource s).reads = s.reads := rfl
@[simp] theorem waitForSource_freeCount : (waitForSource s).freeCount = s.freeCount := rfl

/-! ### applyReset -/

@[simp] theorem applyReset_pc : (applyReset s).pc = 0 := rfl
@[simp] theorem applyReset_origin : (applyReset s).origin = 0 := rfl
@[simp] theorem applyReset_n : (applyReset s).n = 0 := rfl
@[simp] theorem applyReset_stepReg : (applyReset s).stepReg = 1 := rfl
@[simp] theorem applyReset_fsize : (applyReset s).fsize = 0 := rfl
@[simp] theorem applyReset_w : (applyReset s).w = 0 := rfl
@[simp] theorem applyReset_t : (applyReset s).t = 0 := rfl
@[simp] theorem applyReset_exact : (applyReset s).exact = false := rfl
@[simp] theorem applyReset_findsub : (applyReset s).findsub = false := rfl
@[simp] theorem applyReset_hbValid : (applyReset s).hbValid = false := rfl
@[simp] theorem applyReset_hc : (applyReset s).hc = Config.unspecifiedHeader s.freeCount := rfl
@[simp] theorem applyReset_hb : (applyReset s).hb = Config.unspecifiedHeader (s.freeCount + 1) := rfl
@[simp] theorem applyReset_phase : (applyReset s).phase = .idle := rfl
@[simp] theorem applyReset_busy : (applyReset s).busy = false := rfl
@[simp] theorem applyReset_done : (applyReset s).done = false := rfl
@[simp] theorem applyReset_verdict : (applyReset s).verdict = false := rfl
@[simp] theorem applyReset_port : (applyReset s).port = ReadPort.idle := rfl
@[simp] theorem applyReset_src : (applyReset s).src = s.src := rfl
@[simp] theorem applyReset_params : (applyReset s).params = s.params := rfl
@[simp] theorem applyReset_start : (applyReset s).start = false := rfl
@[simp] theorem applyReset_rst : (applyReset s).rst = s.rst := rfl
@[simp] theorem applyReset_srcAnswers : (applyReset s).srcAnswers = s.srcAnswers := rfl
@[simp] theorem applyReset_unitReq : (applyReset s).unitReq = none := rfl
@[simp] theorem applyReset_unitResult : (applyReset s).unitResult = none := rfl
@[simp] theorem applyReset_lastFailure : (applyReset s).lastFailure = none := rfl
@[simp] theorem applyReset_reads : (applyReset s).reads = 0 := rfl
@[simp] theorem applyReset_freeCount : (applyReset s).freeCount = s.freeCount + 2 := rfl

/-! ### The latched words -/

@[simp] theorem latchWord_w_short : (latchWord .short s).w = s.w := rfl
@[simp] theorem latchWord_w_bytes (bs : List Byte) : (latchWord (.bytes bs) s).w = wordOfList bs := rfl
@[simp] theorem latchTag_t_short (a : Offset) : (latchTag a .short s).t = s.t := rfl
@[simp] theorem latchTag_t_bytes (a : Offset) (bs : List Byte) : (latchTag a (.bytes bs) s).t = tagOfList bs := rfl

end Sys2Proof.Machine
end

