-- ==== Sys2Proof/Laws/Ops.lean ====
section
/-! SUPPORT. What each shared operation can do, said once: the rows of the sequencer, the attempt, the scan loop, the probe
sequence and the step. -/

namespace Sys2Proof.Machine

/-! ### Rows of the table -/

/-- A valid row is the Hit of its record. -/
theorem exec_of_rowRecord {i : Instr} {h : HeaderRec} (hi : rowRecord i = some h) (s : State) :
    exec i s = .next (headerHit h s) := by
  cases i <;> simp only [rowRecord, Option.some.injEq, reduceCtorEq] at hi <;> subst hi <;> rfl

/-- A reject row is a failed attempt of its kind. -/
theorem exec_of_rejectKind {i : Instr} {k : Option FailureKind} (hi : rejectKind i = some k) (s : State) :
    exec i s = .next (failedAttempt k s) := by
  cases i <;> simp only [rejectKind, Option.some.injEq, reduceCtorEq] at hi <;> subst hi <;> rfl

/-- Every row that a 4-byte fetch decodes to is a valid row or a reject row. -/
theorem classify_isSome (v lr : BitVec 2) (f : HdrFields) :
    ((rowRecord (classify v lr f)).isSome || (rejectKind (classify v lr f)).isSome) = true := by
  simp only [classify, classifyMpeg1L2]
  repeat' first | rfl | (apply iteInduction (motive := fun i : Instr => ((rowRecord i).isSome || (rejectKind i).isSome) = true) <;> intro _)

theorem classify_row (v lr : BitVec 2) (f : HdrFields) :
    (∃ h, rowRecord (classify v lr f) = some h) ∨ (∃ k, rejectKind (classify v lr f) = some k) := by
  have h := classify_isSome v lr f
  rwa [Bool.or_eq_true, Option.isSome_iff_exists, Option.isSome_iff_exists] at h

/-! ### The sequencer's rows -/

theorem headerHit_scan1 {s : State} (h : HeaderRec) (hp : s.phase = .scan1) : headerHit h s = firstHit h s := by
  simp [headerHit, hp]

theorem headerHit_scan2 {s : State} (h : HeaderRec) (hp : s.phase = .scan2) : headerHit h s = secondHit h s := by
  simp [headerHit, hp]

theorem failedAttempt_scan1 {s : State} (k : Option FailureKind) (hp : s.phase = .scan1) :
    failedAttempt k s = forwardMiss k s := by
  simp [failedAttempt, hp]

theorem failedAttempt_scan2 {s : State} (k : Option FailureKind) (hp : s.phase = .scan2) :
    failedAttempt k s = exactMiss k s := by
  simp [failedAttempt, hp]

/-- Everything a forward miss can do. -/
theorem forwardMiss_cases (k : Option FailureKind) (s : State) :
    (16384 ≤ s.n.toNat + 1 ∧ forwardMiss k s = finishDetection false (some .scanExhausted) { s with n := s.n + 1 }) ∨
    (s.n.toNat + 1 < 16384 ∧ forwardMiss k s = { s with n := s.n + 1, pc := s.pc + 1, lastFailure := k }) := by
  unfold forwardMiss
  split
  · exact .inl ⟨‹_›, rfl⟩
  · rename_i h
    exact .inr ⟨by simp only [Config.maxScanRange] at h; omega, rfl⟩

/-- Everything an exact-offset miss can do. -/
theorem exactMiss_cases (k : Option FailureKind) (s : State) :
    (exactScanEnds k s = true ∧ exactMiss k s = finishDetection false (some .scanExhausted) s) ∨
    (exactScanEnds k s = false ∧ exactMiss k s =
      { s with
        pc := BitVec.ofInt 32 (nextProbe s.params.probeMode s.origin.toNat s.pc.toNat s.stepReg.toNat)
        stepReg := s.stepReg + 1
        lastFailure := k }) := by
  unfold exactMiss
  split
  · exact .inl ⟨‹_›, rfl⟩
  · rename_i h
    exact .inr ⟨by simpa using h, rfl⟩

/-- No row is a Short read. -/
theorem rejectKind_read {i : Instr} {k : Option FailureKind} (hi : rejectKind i = some k) :
    k ≠ some .sourceUnreadable := by
  cases i <;> simp only [rejectKind, Option.some.injEq, reduceCtorEq] at hi <;> subst hi <;> simp

/-- The resync transfer as the 32-bit addition the cursor makes. -/
theorem nextProbe_bits (mode : ProbeMode) (o p : BitVec 32) (st : BitVec 3) :
    BitVec.ofInt 32 (nextProbe mode o.toNat p.toNat st.toNat) =
      probeBase mode o p + (if st.toNat % 2 = 1 then st.setWidth 32 else -st.setWidth 32) := by
  have h3 := st.isLt
  have key : ∀ a : BitVec 32, BitVec.ofInt 32 ((a.toNat : Int) + st.toNat) = a + st.setWidth 32 ∧
      BitVec.ofInt 32 ((a.toNat : Int) - st.toNat) = a + -st.setWidth 32 := by
    intro a
    have hst : (st.setWidth 32 : BitVec 32) = BitVec.ofInt 32 (st.toNat : Int) := by
      apply BitVec.eq_of_toNat_eq; simp
    have ha : a = BitVec.ofInt 32 (a.toNat : Int) := by
      apply BitVec.eq_of_toNat_eq; simp
    constructor
    · rw [hst]; conv_rhs => rw [ha]
      rw [← BitVec.ofInt_add]
    · rw [hst, ← BitVec.ofInt_neg]; conv_rhs => rw [ha]
      rw [← BitVec.ofInt_add, Int.sub_eq_add_neg]
  cases mode <;> simp only [nextProbe, probeBase] <;> split <;> simp only [key]

/-- An exact-offset miss that leaves attempts. -/
theorem exactMiss_continues {s : State} {k : Option FailureKind} (h6 : s.stepReg.toNat ≤ 6)
    (hk : ¬ (k = some .sourceUnreadable ∧ s.params.eosPolicy = .stopAtOnce)) :
    exactMiss k s =
      { s with
          pc :=
            probeBase s.params.probeMode s.origin s.pc +
            (if s.stepReg.toNat % 2 = 1 then s.stepReg.setWidth 32 else - s.stepReg.setWidth 32)
          stepReg := s.stepReg + 1
          lastFailure := k } := by
  rcases exactMiss_cases k s with ⟨h, _⟩ | ⟨h, he⟩
  · exfalso
    simp only [exactScanEnds, Bool.or_eq_true, decide_eq_true_eq, Bool.and_eq_true, beq_iff_eq] at h; simp only [Config.exactTolerance] at h
    rcases h with h | h
    · omega
    · exact hk h
  · rw [he, nextProbe_bits]

/-- An exact-offset miss that ends the scan. -/
theorem exactMiss_ends {s : State} {k : Option FailureKind}
    (h6 : 6 < s.stepReg.toNat ∨ (k = some .sourceUnreadable ∧ s.params.eosPolicy = .stopAtOnce)) :
    exactMiss k s = finishDetection false (some .scanExhausted) s := by
  rcases exactMiss_cases k s with ⟨h, he⟩ | ⟨h, he⟩
  · exact he
  · exfalso
    have h' : ¬ exactScanEnds k s = true := by simp [h]
    simp only [exactScanEnds, Bool.or_eq_true, decide_eq_true_eq, Bool.and_eq_true, beq_iff_eq] at h'
    exact h' h6

/-! ### The attempt -/

/-- Everything a read of four bytes can turn out to be. -/
theorem attemptOn_bytes (b0 b1 b2 b3 : Byte) :
    attemptOn (.bytes [b0, b1, b2, b3]) =
      if isCandidate b0 b1 b2 then
        match decodeWord (wordOfBytes b0 b1 b2 b3) with
        | .ok h => .hit (wordOfBytes b0 b1 b2 b3) h
        | .error _ => .invalid (wordOfBytes b0 b1 b2 b3)
      else .notCandidate (wordOfBytes b0 b1 b2 b3) := rfl

theorem attemptOn_short : attemptOn .short = .short := rfl

theorem attemptAt_negative {src : Memory} {c : Int} (h : c < 0) : attemptAt src c = .noRead := by
  simp [attemptAt, h]

theorem attemptAt_natural (src : Memory) (a : Nat) : attemptAt src (a : Int) = attemptOn (memRead src a 4) := by
  have h : ¬ ((a : Int) < 0) := by omega
  simp [attemptAt, h]

/-! ### The probe sequence -/

/-- The transfer after attempt `k`, with `step = k + 1`, leads to the offset of attempt `k + 1`. -/
theorem nextProbe_position (mode : ProbeMode) (O : Int) (k : Nat) :
    nextProbe mode O (probePosition mode O k) (k + 1) = probePosition mode O (k + 1) := by
  cases mode
  · simp only [nextProbe, probeBase, probePosition]
    split <;> split <;> omega
  · simp only [nextProbe, probeBase, probePosition]

theorem probePosition_zero (mode : ProbeMode) (O : Int) : probePosition mode O 0 = O := by
  cases mode <;> simp [probePosition]

/-- No displaced offset of a whole scan is further than six from the computed one. -/
theorem probePosition_bounds (mode : ProbeMode) (O : Int) {k : Nat} (hk : k ≤ 6) :
    O - 6 ≤ probePosition mode O k ∧ probePosition mode O k ≤ O + 5 := by
  cases mode <;> simp only [probePosition] <;> split <;> omega

/-! ### The scan loop -/

/-- The loop stops at a hit, with the answer MATCH gives. -/
theorem scanLoop_hit {p : Params} {src : Memory} {exact : Bool} {base : Option HeaderRec} {fuel : Nat} {r : ScanRun}
    {w : Word} {h : HeaderRec} (ha : attemptAt src r.cursor = .hit w h) :
    scanLoop p src exact base (fuel + 1) r = (atFirstHit base h r.cursor, r.record (.hit w h)) := by
  simp only [scanLoop, ha]
  cases base with
  | none => rfl
  | some hb => simp only [atFirstHit]; split <;> rfl

/-- The loop's next turn after a failed attempt of a forward scan. -/
theorem scanLoop_forward_miss {p : Params} {src : Memory} {base : Option HeaderRec} {fuel : Nat} {r : ScanRun}
    (ha : ∀ w h, attemptAt src r.cursor ≠ .hit w h) :
    scanLoop p src false base (fuel + 1) r =
      (let r' := r.record (attemptAt src r.cursor)
       if Config.maxScanRange ≤ r'.n + 1 then (.error .scanExhausted, { r' with n := r'.n + 1 })
       else scanLoop p src false base fuel { r' with n := r'.n + 1, cursor := r'.cursor + 1 }) := by
  simp only [scanLoop]
  cases hc : attemptAt src r.cursor with
  | hit w h => exact absurd hc (ha w h)
  | _ => simp

/-- The loop's next turn after a failed attempt of an exact-offset scan. -/
theorem scanLoop_exact_miss {p : Params} {src : Memory} {base : Option HeaderRec} {fuel : Nat} {r : ScanRun}
    (ha : ∀ w h, attemptAt src r.cursor ≠ .hit w h) :
    scanLoop p src true base (fuel + 1) r =
      (let a := attemptAt src r.cursor
       let r' := r.record a
       if stopsAtShort p a || decide (Config.exactTolerance < r'.step) then (.error .scanExhausted, r')
       else
         scanLoop p src true base fuel
           { r' with cursor := nextProbe p.probeMode r'.origin r'.cursor r'.step, step := r'.step + 1 }) := by
  simp only [scanLoop]
  cases hc : attemptAt src r.cursor with
  | hit w h => exact absurd hc (ha w h)
  | _ => simp

/-- An attempt moves no counter and no cursor; the resync policy does. -/
theorem record_counters (a : Attempt) (r : ScanRun) :
    (r.record a).cursor = r.cursor ∧ (r.record a).origin = r.origin ∧ (r.record a).n = r.n ∧
    (r.record a).step = r.step ∧ (r.record a).reads ≤ r.reads + 1 := by
  cases a <;> simp [ScanRun.record]

/-! ### The step -/

/-- The step, by reset, phase and answering source. -/
theorem step_of_rst {s : State} (h : s.rst = true) : step s = .next (applyReset s) := by
  simp [step, h]

theorem step_idle {s : State} (hr : s.rst = false) (hp : s.phase = .idle) : step s = stepIdle s := by
  simp [step, hr, hp]

theorem step_tag {s : State} (hr : s.rst = false) (hp : s.phase = .tag) (ha : s.srcAnswers = true) :
    step s = stepTag s := by
  simp [step, hr, hp, ha]

theorem step_scan {s : State} (hr : s.rst = false) (hp : s.phase = .scan1 ∨ s.phase = .scan2)
    (ha : s.srcAnswers = true) : step s = stepScan s := by
  rcases hp with hp | hp <;> simp [step, hr, hp, ha]

theorem step_waits {s : State} (hr : s.rst = false) (hp : s.phase ≠ .idle) (ha : s.srcAnswers = false) :
    step s = .next (waitForSource s) := by
  cases h : s.phase <;> simp_all [step]

/-- A scan step whose read is Short. -/
theorem stepScan_short {s : State} (h : memRead s.src s.pc.toNat 4 = .short) :
    stepScan s = .next (failedAttempt (some .sourceUnreadable) (latchWord .short (consumeInputs s))) := by
  simp only [stepScan, h]

/-- A scan step whose bytes decode to a row runs the row. -/
theorem stepScan_row {s : State} {bs : List Byte} {i : Instr} (h : memRead s.src s.pc.toNat 4 = .bytes bs)
    (hd : decode .mpegHdr32 bs = .ok i) : stepScan s = exec i (latchWord (.bytes bs) (consumeInputs s)) := by
  simp only [stepScan, h, hd]

/-- A scan step whose bytes have no sync. -/
theorem stepScan_noSync {s : State} {bs : List Byte} {e : DecodeReject} (h : memRead s.src s.pc.toNat 4 = .bytes bs)
    (hd : decode .mpegHdr32 bs = .error e) :
    stepScan s = .next (failedAttempt none (latchWord (.bytes bs) (consumeInputs s))) := by
  simp only [stepScan, h, hd]

/-- A scan step at a header. -/
theorem stepScan_hit {s : State} {b0 b1 b2 b3 : Byte} {h : HeaderRec} (hm : BytesAt s.src s.pc.toNat b0 b1 b2 b3)
    (hc : isCandidate b0 b1 b2 = true) (hd : decodeWord (wordOfBytes b0 b1 b2 b3) = .ok h) :
    stepScan s = .next (headerHit h (latchWord (.bytes [b0,b1,b2,b3]) (consumeInputs s))) := by
  obtain ⟨_, hm⟩ := hm
  obtain ⟨hsy, hbi⟩ := (isCandidate_fields b0 b1 b2 b3).1 hc
  have : Sys2Proof.decode .mpegHdr32 [b0,b1,b2,b3] = .ok (classify (versionField (wordOfBytes b0 b1 b2 b3)) (layerField (wordOfBytes b0 b1 b2 b3)) (fieldsOfWord (wordOfBytes b0 b1 b2 b3))) := by
    simp [Sys2Proof.decode, decodeHeaderWord, hsy]
  rw [stepScan_row (by simpa using hm) this, exec_of_rowRecord (classify_record.2 (decodeWord_ok hd))]

/-- A scan step where no header stands. -/
theorem stepScan_miss {s : State} (hm : NoHeaderAt s.src s.pc.toNat) :
    ∃ k, (k = some .sourceUnreadable ↔ memRead s.src s.pc.toNat 4 = .short) ∧
      stepScan s = .next (failedAttempt k (latchWord (memRead s.src s.pc.toNat 4) (consumeInputs s))) := by
  rcases hr : memRead s.src s.pc.toNat 4 with _ | bs
  · exact ⟨some .sourceUnreadable, by simp, by rw [stepScan_short hr]⟩
  · obtain ⟨b0, b1, b2, b3, rfl⟩ : ∃ b0 b1 b2 b3, bs = [b0,b1,b2,b3] := memRead_four hr
    cases hd : Sys2Proof.decode .mpegHdr32 [b0,b1,b2,b3] with
    | error e => exact ⟨none, by simp, stepScan_noSync hr hd⟩
    | ok i =>
      have hd' := hd
      simp only [Sys2Proof.decode, decodeHeaderWord] at hd
      split at hd
      · cases hd
        rcases classify_row (versionField (wordOfBytes b0 b1 b2 b3)) (layerField (wordOfBytes b0 b1 b2 b3)) (fieldsOfWord (wordOfBytes b0 b1 b2 b3)) with ⟨h, hh⟩ | ⟨k, hk⟩
        · exfalso
          have := classify_record.1 hh
          have hdw : decodeWord (wordOfBytes b0 b1 b2 b3) = .ok h := by
            rcases decodeWord_eq (wordOfBytes b0 b1 b2 b3) with ⟨_, he⟩ | ⟨hn, _⟩
            · rw [he, this.2]
            · exact absurd this.1 hn
          exact hm h ⟨b0, b1, b2, b3, ⟨by omega, by simpa using hr⟩, (isCandidate_fields ..).2 ⟨‹_›, this.1.2.2.1⟩, hdw⟩
        · exact ⟨k, by simp [rejectKind_read hk], by rw [stepScan_row hr hd', exec_of_rejectKind hk]⟩
      · cases hd

end Sys2Proof.Machine
end

