-- ==== Sys2Proof/Laws/PerInstr.lean ====
section
/-! SUPPORT. Per instruction: the encoded word has the fixed fields that spec/opcode_table.json gives the row. -/

namespace Sys2Proof.Laws.RowPattern

/-- The "fixed" entries (hi, lo, value) of the row in spec/opcode_table.json; for a tag row and a unit row, the fixed bits
of its "encoding" string. -/
def fixedFields : Instr → List (Nat × Nat × Nat)
  | .hdrMpeg1L1 _ => [(31, 17, 32767)]
  | .hdrMpeg1L2 _ => [(31, 17, 32766)]
  | .hdrMpeg1L3 _ => [(31, 17, 32765)]
  | .hdrMpeg2L1 _ => [(31, 17, 32763)]
  | .hdrMpeg2L2 _ => [(31, 17, 32762)]
  | .hdrMpeg2L3 _ => [(31, 17, 32761)]
  | .hdrMpeg25L1 _ => [(31, 17, 32755)]
  | .hdrMpeg25L2 _ => [(31, 17, 32754)]
  | .hdrMpeg25L3 _ => [(31, 17, 32753)]
  | .hdrRejectVersionReserved _ _ => [(31, 19, 8189)]
  | .hdrRejectLayerReserved _ _ => [(18, 17, 0), (31, 21, 2047)]
  | .hdrRejectBitrateIndex15 _ _ _ => [(15, 12, 15), (31, 21, 2047)]
  | .hdrRejectBitrateIndex0 _ _ _ => [(15, 12, 0), (31, 21, 2047)]
  | .hdrRejectSamplerateIndex3 _ _ _ => [(11, 10, 3), (31, 21, 2047)]
  | .hdrRejectEmphasisReserved _ _ _ => [(1, 0, 2), (31, 21, 2047)]
  | .hdrRejectM1l2Bi1Cm0 _ => [(7, 6, 0), (15, 12, 1), (31, 17, 32766)]
  | .hdrRejectM1l2Bi1Cm1 _ => [(7, 6, 1), (15, 12, 1), (31, 17, 32766)]
  | .hdrRejectM1l2Bi1Cm2 _ => [(7, 6, 2), (15, 12, 1), (31, 17, 32766)]
  | .hdrRejectM1l2Bi2Cm0 _ => [(7, 6, 0), (15, 12, 2), (31, 17, 32766)]
  | .hdrRejectM1l2Bi2Cm1 _ => [(7, 6, 1), (15, 12, 2), (31, 17, 32766)]
  | .hdrRejectM1l2Bi2Cm2 _ => [(7, 6, 2), (15, 12, 2), (31, 17, 32766)]
  | .hdrRejectM1l2Bi3Cm0 _ => [(7, 6, 0), (15, 12, 3), (31, 17, 32766)]
  | .hdrRejectM1l2Bi3Cm1 _ => [(7, 6, 1), (15, 12, 3), (31, 17, 32766)]
  | .hdrRejectM1l2Bi3Cm2 _ => [(7, 6, 2), (15, 12, 3), (31, 17, 32766)]
  | .hdrRejectM1l2Bi5Cm0 _ => [(7, 6, 0), (15, 12, 5), (31, 17, 32766)]
  | .hdrRejectM1l2Bi5Cm1 _ => [(7, 6, 1), (15, 12, 5), (31, 17, 32766)]
  | .hdrRejectM1l2Bi5Cm2 _ => [(7, 6, 2), (15, 12, 5), (31, 17, 32766)]
  | .hdrRejectM1l2Bi11Mono _ => [(7, 6, 3), (15, 12, 11), (31, 17, 32766)]
  | .hdrRejectM1l2Bi12Mono _ => [(7, 6, 3), (15, 12, 12), (31, 17, 32766)]
  | .hdrRejectM1l2Bi13Mono _ => [(7, 6, 3), (15, 12, 13), (31, 17, 32766)]
  | .hdrRejectM1l2Bi14Mono _ => [(7, 6, 3), (15, 12, 14), (31, 17, 32766)]
  | .id3v2TagNoFooter _ => [(79, 56, 4801587), (36, 36, 0)]
  | .id3v2TagFooter _ => [(79, 56, 4801587), (36, 36, 1)]
  | .detect => [(2, 0, 0)]
  | .skiptag => [(2, 0, 1)]
  | .findframe => [(2, 0, 2)]
  | .verify => [(2, 0, 3)]
  | .decode => [(2, 0, 4)]
  | .fsize => [(2, 0, 5)]
  | .matchHeaders => [(2, 0, 6)]

/-- The number of a byte list, the first byte most significant. -/
def numberOf (bs : List Byte) : Nat := bs.foldl (fun acc b => acc * 256 + b.toNat) 0

/-- The row's fixed fields stand in the encoded word. -/
def Statement (i : Instr) : Prop :=
  i.wellFormed = true →
    ∀ x ∈ fixedFields i, numberOf (encode i) / 2 ^ x.2.1 % 2 ^ (x.1 - x.2.1 + 1) = x.2.2

/-! ### Numbers of encodings -/

theorem numberOf_bytesOfWord (w : Word) : numberOf (bytesOfWord w) = w.toNat := by
  have := w.isLt
  simp only [numberOf, bytesOfWord, List.foldl, extract_toNat]
  omega

/-- The fields of a word read off its number. -/
theorem number_fields (v lr : BitVec 2) (f : HdrFields) :
    let n := numberOf (bytesOfWord (wordOfFields v lr f))
    n / 2 ^ 21 = 2047 ∧ n / 2 ^ 19 % 2 ^ 2 = v.toNat ∧ n / 2 ^ 17 % 2 ^ 2 = lr.toNat ∧
    n / 2 ^ 12 % 2 ^ 4 = f.bitrate.toNat ∧ n / 2 ^ 10 % 2 ^ 2 = f.srate.toNat ∧
    n / 2 ^ 6 % 2 ^ 2 = f.cmode.toNat ∧ n % 2 ^ 2 = f.emph.toNat := by
  simp only [numberOf_bytesOfWord]
  have hs := congrArg BitVec.toNat (syncField_wordOfFields v lr f)
  have hv := congrArg BitVec.toNat (versionField_wordOfFields v lr f)
  have hl := congrArg BitVec.toNat (layerField_wordOfFields v lr f)
  have hf := fieldsOfWord_wordOfFields v lr f
  have hb := congrArg (fun g => g.bitrate.toNat) hf
  have hr := congrArg (fun g => g.srate.toNat) hf
  have hc := congrArg (fun g => g.cmode.toNat) hf
  have he := congrArg (fun g => g.emph.toNat) hf
  have hlt := (wordOfFields v lr f).isLt
  rw [show (0x7FF : BitVec 11).toNat = 2047 from rfl] at hs
  simp only [syncField, versionField, layerField, fieldsOfWord, extract_toNat] at hs hv hl hb hr hc he
  refine ⟨by omega, hv, hl, hb, hr, hc, by simpa using he⟩

/-- A word's fixed fields, from the values of its fields. -/
theorem word_fixed {v lr : BitVec 2} {f : HdrFields} {xs : List (Nat × Nat × Nat)}
    (h : ∀ n, n / 2 ^ 21 = 2047 → n / 2 ^ 19 % 2 ^ 2 = v.toNat → n / 2 ^ 17 % 2 ^ 2 = lr.toNat →
      n / 2 ^ 12 % 2 ^ 4 = f.bitrate.toNat → n / 2 ^ 10 % 2 ^ 2 = f.srate.toNat →
      n / 2 ^ 6 % 2 ^ 2 = f.cmode.toNat → n % 2 ^ 2 = f.emph.toNat →
      ∀ x ∈ xs, n / 2 ^ x.2.1 % 2 ^ (x.1 - x.2.1 + 1) = x.2.2) :
    ∀ x ∈ xs, numberOf (bytesOfWord (wordOfFields v lr f)) / 2 ^ x.2.1 % 2 ^ (x.1 - x.2.1 + 1) = x.2.2 := by
  obtain ⟨a, b, c, d, e, g, k⟩ := number_fields v lr f
  exact h _ a b c d e g k

theorem cell_values {f : HdrFields} {bi : BitVec 4} {cm : BitVec 2} (h : f.m1l2Cell bi cm = true) :
    f.bitrate = bi ∧ f.cmode = cm := by
  simp only [HdrFields.m1l2Cell, Bool.and_eq_true, beq_iff_eq] at h
  exact h.1.1

/-- The sixteen MPEG1 Layer2 reject rows at once. -/
theorem cell_fixed {f : HdrFields} {bi : BitVec 4} {cm : BitVec 2} (h : f.m1l2Cell bi cm = true) :
    ∀ x ∈ [(7, 6, cm.toNat), (15, 12, bi.toNat), (31, 17, 32766)],
      numberOf (bytesOfWord (wordOfFields 3 2 f)) / 2 ^ x.2.1 % 2 ^ (x.1 - x.2.1 + 1) = x.2.2 := by
  obtain ⟨rfl, rfl⟩ := cell_values h
  refine word_fixed fun n a b c d e g k => ?_
  simp at a b c d e g k ⊢
  omega

/-! ### One lemma per constructor -/

theorem hdrMpeg1L1 (f : HdrFields) : Statement (.hdrMpeg1L1 f) := fun _ =>
  word_fixed fun n a b c d e g k => by
    simp [fixedFields] at a b c d e g k ⊢
    omega

theorem hdrMpeg1L2 (f : HdrFields) : Statement (.hdrMpeg1L2 f) := fun _ =>
  word_fixed fun n a b c d e g k => by
    simp [fixedFields] at a b c d e g k ⊢
    omega

theorem hdrMpeg1L3 (f : HdrFields) : Statement (.hdrMpeg1L3 f) := fun _ =>
  word_fixed fun n a b c d e g k => by
    simp [fixedFields] at a b c d e g k ⊢
    omega

theorem hdrMpeg2L1 (f : HdrFields) : Statement (.hdrMpeg2L1 f) := fun _ =>
  word_fixed fun n a b c d e g k => by
    simp [fixedFields] at a b c d e g k ⊢
    omega

theorem hdrMpeg2L2 (f : HdrFields) : Statement (.hdrMpeg2L2 f) := fun _ =>
  word_fixed fun n a b c d e g k => by
    simp [fixedFields] at a b c d e g k ⊢
    omega

theorem hdrMpeg2L3 (f : HdrFields) : Statement (.hdrMpeg2L3 f) := fun _ =>
  word_fixed fun n a b c d e g k => by
    simp [fixedFields] at a b c d e g k ⊢
    omega

theorem hdrMpeg25L1 (f : HdrFields) : Statement (.hdrMpeg25L1 f) := fun _ =>
  word_fixed fun n a b c d e g k => by
    simp [fixedFields] at a b c d e g k ⊢
    omega

theorem hdrMpeg25L2 (f : HdrFields) : Statement (.hdrMpeg25L2 f) := fun _ =>
  word_fixed fun n a b c d e g k => by
    simp [fixedFields] at a b c d e g k ⊢
    omega

theorem hdrMpeg25L3 (f : HdrFields) : Statement (.hdrMpeg25L3 f) := fun _ =>
  word_fixed fun n a b c d e g k => by
    simp [fixedFields] at a b c d e g k ⊢
    omega

theorem hdrRejectVersionReserved (lr : BitVec 2) (f : HdrFields) : Statement (.hdrRejectVersionReserved lr f) := fun hw =>
  word_fixed fun n a b c d e g k => by
    simp [fixedFields, Instr.wellFormed] at a b c d e g k hw ⊢
    omega

theorem hdrRejectLayerReserved (v : BitVec 2) (f : HdrFields) : Statement (.hdrRejectLayerReserved v f) := fun hw =>
  word_fixed fun n a b c d e g k => by
    simp [fixedFields, Instr.wellFormed] at a b c d e g k hw ⊢
    simp_all

theorem hdrRejectBitrateIndex15 (v lr : BitVec 2) (f : HdrFields) : Statement (.hdrRejectBitrateIndex15 v lr f) := fun hw =>
  word_fixed fun n a b c d e g k => by
    simp [fixedFields, Instr.wellFormed] at a b c d e g k hw ⊢
    simp_all

theorem hdrRejectBitrateIndex0 (v lr : BitVec 2) (f : HdrFields) : Statement (.hdrRejectBitrateIndex0 v lr f) := fun hw =>
  word_fixed fun n a b c d e g k => by
    simp [fixedFields, Instr.wellFormed] at a b c d e g k hw ⊢
    simp_all

theorem hdrRejectSamplerateIndex3 (v lr : BitVec 2) (f : HdrFields) : Statement (.hdrRejectSamplerateIndex3 v lr f) := fun hw =>
  word_fixed fun n a b c d e g k => by
    simp [fixedFields, Instr.wellFormed] at a b c d e g k hw ⊢
    simp_all

theorem hdrRejectEmphasisReserved (v lr : BitVec 2) (f : HdrFields) : Statement (.hdrRejectEmphasisReserved v lr f) := fun hw =>
  word_fixed fun n a b c d e g k => by
    simp [fixedFields, Instr.wellFormed] at a b c d e g k hw ⊢
    simp_all

theorem hdrRejectM1l2Bi1Cm0 (f : HdrFields) : Statement (.hdrRejectM1l2Bi1Cm0 f) := fun hw => cell_fixed hw

theorem hdrRejectM1l2Bi1Cm1 (f : HdrFields) : Statement (.hdrRejectM1l2Bi1Cm1 f) := fun hw => cell_fixed hw

theorem hdrRejectM1l2Bi1Cm2 (f : HdrFields) : Statement (.hdrRejectM1l2Bi1Cm2 f) := fun hw => cell_fixed hw

theorem hdrRejectM1l2Bi2Cm0 (f : HdrFields) : Statement (.hdrRejectM1l2Bi2Cm0 f) := fun hw => cell_fixed hw

theorem hdrRejectM1l2Bi2Cm1 (f : HdrFields) : Statement (.hdrRejectM1l2Bi2Cm1 f) := fun hw => cell_fixed hw

theorem hdrRejectM1l2Bi2Cm2 (f : HdrFields) : Statement (.hdrRejectM1l2Bi2Cm2 f) := fun hw => cell_fixed hw

theorem hdrRejectM1l2Bi3Cm0 (f : HdrFields) : Statement (.hdrRejectM1l2Bi3Cm0 f) := fun hw => cell_fixed hw

theorem hdrRejectM1l2Bi3Cm1 (f : HdrFields) : Statement (.hdrRejectM1l2Bi3Cm1 f) := fun hw => cell_fixed hw

theorem hdrRejectM1l2Bi3Cm2 (f : HdrFields) : Statement (.hdrRejectM1l2Bi3Cm2 f) := fun hw => cell_fixed hw

theorem hdrRejectM1l2Bi5Cm0 (f : HdrFields) : Statement (.hdrRejectM1l2Bi5Cm0 f) := fun hw => cell_fixed hw

theorem hdrRejectM1l2Bi5Cm1 (f : HdrFields) : Statement (.hdrRejectM1l2Bi5Cm1 f) := fun hw => cell_fixed hw

theorem hdrRejectM1l2Bi5Cm2 (f : HdrFields) : Statement (.hdrRejectM1l2Bi5Cm2 f) := fun hw => cell_fixed hw

theorem hdrRejectM1l2Bi11Mono (f : HdrFields) : Statement (.hdrRejectM1l2Bi11Mono f) := fun hw => cell_fixed hw

theorem hdrRejectM1l2Bi12Mono (f : HdrFields) : Statement (.hdrRejectM1l2Bi12Mono f) := fun hw => cell_fixed hw

theorem hdrRejectM1l2Bi13Mono (f : HdrFields) : Statement (.hdrRejectM1l2Bi13Mono f) := fun hw => cell_fixed hw

theorem hdrRejectM1l2Bi14Mono (f : HdrFields) : Statement (.hdrRejectM1l2Bi14Mono f) := fun hw => cell_fixed hw

/-- The two tag rows at once. -/
theorem tag_fixed (footer : Bool) (t : TagFields) :
    ∀ x ∈ [(79, 56, 4801587), (36, 36, footer.toNat)],
      numberOf (bytesOfTag footer t) / 2 ^ x.2.1 % 2 ^ (x.1 - x.2.1 + 1) = x.2.2 := by
  have := t.verMajor.isLt
  have := t.verMinor.isLt
  have := t.flagsHigh.isLt
  have := t.flagsLow.isLt
  have := t.b6.isLt
  have := t.b7.isLt
  have := t.b8.isLt
  have := t.b9.isLt
  cases footer <;>
    simp [numberOf, bytesOfTag, tagSignature, flagsByte_toNat] <;> omega

theorem id3v2TagNoFooter (t : TagFields) : Statement (.id3v2TagNoFooter t) := fun _ => tag_fixed false t

theorem id3v2TagFooter (t : TagFields) : Statement (.id3v2TagFooter t) := fun _ => tag_fixed true t

theorem detect : Statement .detect := by
  intro _ x hx
  revert x
  decide

theorem skiptag : Statement .skiptag := by
  intro _ x hx
  revert x
  decide

theorem findframe : Statement .findframe := by
  intro _ x hx
  revert x
  decide

theorem verify : Statement .verify := by
  intro _ x hx
  revert x
  decide

theorem decode : Statement .decode := by
  intro _ x hx
  revert x
  decide

theorem fsize : Statement .fsize := by
  intro _ x hx
  revert x
  decide

theorem matchHeaders : Statement .matchHeaders := by
  intro _ x hx
  revert x
  decide

end Sys2Proof.Laws.RowPattern
end

