-- ==== Sys2Proof/Laws/Scan.lean ====
section
/-! SUPPORT. The scan loop, said once for any remaining budget: where it stops and what it has read by then. The scan's own
fuel is a large numeral, so proofs take it as a variable (`findFrame_fuel`) and never compute with it. -/

namespace Sys2Proof.Machine

/-! ### An attempt and what stands in the source -/

theorem attemptAt_hit {src : Memory} {c : Int} {h : HeaderRec} (hh : HeaderAt src c h) :
    ∃ w, attemptAt src c = .hit w h := by
  obtain ⟨b0, b1, b2, b3, ⟨hc, hm⟩, hca, hd⟩ := hh
  refine ⟨wordOfBytes b0 b1 b2 b3, ?_⟩
  unfold attemptAt
  rw [if_neg (by omega), hm, attemptOn_bytes, if_pos hca, hd]

theorem headerAt_of_hit {src : Memory} {c : Int} {w : Word} {h : HeaderRec} (ha : attemptAt src c = .hit w h) :
    HeaderAt src c h := by
  unfold attemptAt at ha
  split at ha
  · cases ha
  · rename_i hc
    rcases hr : memRead src c.toNat 4 with _ | bs
    · rw [hr] at ha
      cases ha
    · obtain ⟨b0, b1, b2, b3, rfl⟩ := memRead_four hr
      rw [hr, attemptOn_bytes] at ha
      split at ha
      · rename_i hca
        split at ha
        · rename_i h' hd
          cases ha
          exact ⟨b0, b1, b2, b3, ⟨by omega, hr⟩, hca, hd⟩
        · cases ha
      · cases ha

theorem attemptAt_miss {src : Memory} {c : Int} (hn : NoHeaderAt src c) : ∀ w h, attemptAt src c ≠ .hit w h :=
  fun _ h ha => hn h (headerAt_of_hit ha)

theorem attemptAt_short {src : Memory} {c : Int} : attemptAt src c = .short ↔ ShortAt src c := by
  unfold attemptAt ShortAt
  by_cases hc : c < 0
  · rw [if_pos hc]
    constructor
    · intro h
      cases h
    · intro h
      omega
  · rw [if_neg hc]
    rcases hr : memRead src c.toNat 4 with _ | bs
    · simp [attemptOn_short]
      omega
    · obtain ⟨b0, b1, b2, b3, rfl⟩ := memRead_four hr
      rw [attemptOn_bytes]
      split
      · split <;> simp
      · simp

/-- A header begins with 0xFF. -/
theorem noHeader_of_byte {src : Memory} {c : Int} (hb : src.byteAt c.toNat ≠ 0xFF) : NoHeaderAt src c := by
  rintro h ⟨b0, b1, b2, b3, ⟨_, hm⟩, hca, _⟩
  rcases memRead_cases src c.toNat 4 with ⟨_, e⟩ | ⟨_, e⟩ <;> rw [e] at hm
  · simp only [slice_four, ReadResult.bytes.injEq, List.cons.injEq] at hm
    simp only [isCandidate, Bool.and_eq_true, beq_iff_eq] at hca
    exact hb (hm.1.trans hca.1.1)
  · cases hm

theorem noHeader_of_short {src : Memory} {c : Int} (hs : memRead src c.toNat 4 = .short) : NoHeaderAt src c := by
  rintro h ⟨b0, b1, b2, b3, ⟨_, hm⟩, _⟩
  rw [hs] at hm
  cases hm

theorem noHeader_negative {src : Memory} {c : Int} (hc : c < 0) : NoHeaderAt src c := by
  rintro h ⟨b0, b1, b2, b3, ⟨h0, _⟩, _⟩
  omega

/-! ### Fuel -/

theorem scanRun_fuel (p : Params) (src : Memory) (off : Int) (exact : Bool) (base : Option HeaderRec) :
    ∃ fuel, fuel = 16391 ∧ scanRun p src off exact base = scanLoop p src exact base fuel (ScanRun.enter off) :=
  ⟨scanFuel, rfl, rfl⟩

theorem findFrame_fuel (p : Params) (src : Memory) (off : Int) (exact : Bool) (base : Option HeaderRec) :
    ∃ fuel, fuel = 16391 ∧
      findFrame p src off exact base = (scanLoop p src exact base fuel (ScanRun.enter off)).1 := by
  obtain ⟨f, h1, h2⟩ := scanRun_fuel p src off exact base
  exact ⟨f, h1, by rw [← h2]; rfl⟩

/-! ### The forward scan -/

/-- The first header within what is left of the range decides. -/
theorem scanLoop_forward_found {p : Params} {src : Memory} {base : Option HeaderRec} {h : HeaderRec} (k : Nat) :
    ∀ (fuel : Nat) (r : ScanRun), k < fuel → r.n + k < 16384 → HeaderAt src (r.cursor + k) h →
      (∀ j : Nat, j < k → NoHeaderAt src (r.cursor + j)) →
      (scanLoop p src false base fuel r).1 = atFirstHit base h (r.cursor + k) := by
  induction k with
  | zero =>
    intro fuel r hf hn hh _
    obtain ⟨f, rfl⟩ : ∃ f, fuel = f + 1 := ⟨fuel - 1, by omega⟩
    obtain ⟨w, ha⟩ := attemptAt_hit hh
    rw [Int.natCast_zero, Int.add_zero] at ha
    rw [scanLoop_hit ha]
    simp
  | succ k ih =>
    intro fuel r hf hn hh hj
    obtain ⟨f, rfl⟩ : ∃ f, fuel = f + 1 := ⟨fuel - 1, by omega⟩
    rw [scanLoop_forward_miss (attemptAt_miss (by simpa using hj 0 (by omega)))]
    obtain ⟨c1, c2, c3, c4, _⟩ := record_counters (attemptAt src r.cursor) r
    have shift : ∀ j : Nat, r.cursor + 1 + (j : Int) = r.cursor + ((j + 1 : Nat) : Int) := by
      intro j
      push_cast
      omega
    dsimp only
    rw [if_neg (by rw [c3]; simp only [Config.maxScanRange]; omega)]
    rw [ih _ _ (by omega) (by dsimp only; rw [c3]; omega)]
    · dsimp only
      rw [c1, shift]
    · dsimp only
      rw [c1, shift]
      exact hh
    · intro j hjk
      dsimp only
      rw [c1, shift]
      exact hj (j + 1) (by omega)

/-- No header within what is left of the range. -/
theorem scanLoop_forward_none {p : Params} {src : Memory} {base : Option HeaderRec} :
    ∀ (fuel : Nat) (r : ScanRun), r.n < 16384 → (∀ j : Nat, r.n + j < 16384 → NoHeaderAt src (r.cursor + j)) →
      (scanLoop p src false base fuel r).1 = .error .scanExhausted := by
  intro fuel
  induction fuel with
  | zero => intro r _ _; rfl
  | succ f ih =>
    intro r hn hj
    rw [scanLoop_forward_miss (attemptAt_miss (by simpa using hj 0 (by omega)))]
    obtain ⟨c1, c2, c3, c4, _⟩ := record_counters (attemptAt src r.cursor) r
    dsimp only
    split
    · rfl
    · rename_i hle
      rw [c3] at hle
      simp only [Config.maxScanRange] at hle
      apply ih
      · dsimp only
        rw [c3]
        omega
      · intro j hj'
        dsimp only at hj' ⊢
        rw [c3] at hj'
        rw [c1, show r.cursor + 1 + (j : Int) = r.cursor + ((j + 1 : Nat) : Int) by push_cast; omega]
        exact hj _ (by omega)

/-! ### The exact-offset scan -/

/-- An exact-offset scan from `O` that has made `i` attempts. -/
def AtProbe (p : Params) (O : Int) (i : Nat) (r : ScanRun) : Prop :=
  r.origin = O ∧ r.step = i + 1 ∧ r.cursor = probePosition p.probeMode O i

theorem atProbe_enter (p : Params) (O : Int) : AtProbe p O 0 (ScanRun.enter O) :=
  ⟨rfl, rfl, (probePosition_zero ..).symm⟩

theorem probePosition_shift (mode : ProbeMode) (O : Int) (k : Nat) :
    O + probePosition mode 0 k = probePosition mode O k := by
  cases mode <;> simp only [probePosition] <;> split <;> omega

/-- The attempt that ends the scan: the seventh, or a Short read under `stop_at_once`. -/
def LastProbe (p : Params) (src : Memory) (O : Int) (i : Nat) : Prop :=
  6 ≤ i ∨ (p.eosPolicy = .stopAtOnce ∧ ShortAt src (probePosition p.probeMode O i))

theorem lastProbe_iff {p : Params} {src : Memory} {O : Int} {i : Nat} :
    (stopsAtShort p (attemptAt src (probePosition p.probeMode O i)) || decide (Config.exactTolerance < i + 1)) = true ↔
      LastProbe p src O i := by
  unfold LastProbe
  simp only [stopsAtShort, Bool.or_eq_true, Bool.and_eq_true, beq_iff_eq, decide_eq_true_eq, attemptAt_short]
  simp only [Config.exactTolerance]
  constructor
  · rintro (⟨a, b⟩ | a)
    · exact .inr ⟨b, a⟩
    · exact .inl (by omega)
  · rintro (a | ⟨a, b⟩)
    · exact .inr (by omega)
    · exact .inl ⟨b, a⟩

/-- What the scan has recorded after attempt `i`, on its way to attempt `i + 1`. -/
def afterProbe (p : Params) (src : Memory) (O : Int) (i : Nat) (r : ScanRun) : ScanRun :=
  { r.record (attemptAt src (probePosition p.probeMode O i)) with
    cursor := probePosition p.probeMode O (i + 1), origin := O, step := i + 2 }

theorem atProbe_after (p : Params) (src : Memory) (O : Int) (i : Nat) (r : ScanRun) :
    AtProbe p O (i + 1) (afterProbe p src O i r) :=
  ⟨rfl, rfl, rfl⟩

theorem scanLoop_exact_turn {p : Params} {src : Memory} {base : Option HeaderRec} {fuel : Nat} {O : Int} {i : Nat}
    {r : ScanRun} (hr : AtProbe p O i r) (hn : NoHeaderAt src (probePosition p.probeMode O i)) :
    (LastProbe p src O i → scanLoop p src true base (fuel + 1) r =
      (.error .scanExhausted, r.record (attemptAt src (probePosition p.probeMode O i)))) ∧
    (¬ LastProbe p src O i → scanLoop p src true base (fuel + 1) r =
      scanLoop p src true base fuel (afterProbe p src O i r)) := by
  obtain ⟨h1, h2, h3⟩ := hr
  rw [scanLoop_exact_miss (attemptAt_miss (by rw [h3]; exact hn)), h3]
  obtain ⟨c1, c2, c3, c4, _⟩ := record_counters (attemptAt src (probePosition p.probeMode O i)) r
  dsimp only
  rw [c1, c2, c4, h1, h2, h3, nextProbe_position]
  exact ⟨fun hc => if_pos (lastProbe_iff.2 hc), fun hc => if_neg fun h => hc (lastProbe_iff.1 h)⟩

/-- The first header among the offsets that are left decides. -/
theorem scanLoop_exact_found {p : Params} {src : Memory} {base : Option HeaderRec} {O : Int} {h : HeaderRec} (k : Nat) :
    ∀ (fuel i : Nat) (r : ScanRun), k < fuel → i + k ≤ 6 → AtProbe p O i r →
      HeaderAt src (probePosition p.probeMode O (i + k)) h →
      (∀ j, i ≤ j → j < i + k → NoHeaderAt src (probePosition p.probeMode O j) ∧ ¬ LastProbe p src O j) →
      (scanLoop p src true base fuel r).1 = atFirstHit base h (probePosition p.probeMode O (i + k)) := by
  induction k with
  | zero =>
    intro fuel i r hf hi hr hh _
    obtain ⟨f, rfl⟩ : ∃ f, fuel = f + 1 := ⟨fuel - 1, by omega⟩
    obtain ⟨w, ha⟩ := attemptAt_hit hh
    simp only [Nat.add_zero, ← hr.2.2] at ha ⊢
    rw [scanLoop_hit ha]
  | succ k ih =>
    intro fuel i r hf hi hr hh hj
    obtain ⟨f, rfl⟩ : ∃ f, fuel = f + 1 := ⟨fuel - 1, by omega⟩
    obtain ⟨hn, hs⟩ := hj i (by omega) (by omega)
    rw [(scanLoop_exact_turn hr hn).2 hs]
    rw [show i + (k + 1) = i + 1 + k by omega] at hh ⊢
    exact ih f (i + 1) _ (by omega) (by omega) (atProbe_after ..) hh fun j h1 h2 => hj j (by omega) (by omega)

/-- No header among the offsets that are left, up to a Short read that ends the scan. -/
theorem scanLoop_exact_none {p : Params} {src : Memory} {base : Option HeaderRec} {O : Int} :
    ∀ (fuel i : Nat) (r : ScanRun), AtProbe p O i r → i ≤ 6 →
      (∀ j, i ≤ j → j ≤ 6 → (∀ l, i ≤ l → l < j → ¬ LastProbe p src O l) →
        NoHeaderAt src (probePosition p.probeMode O j)) →
      (scanLoop p src true base fuel r).1 = .error .scanExhausted := by
  intro fuel
  induction fuel with
  | zero => intro _ _ _ _ _; rfl
  | succ f ih =>
    intro i r hr hi hj
    have hn := hj i (by omega) hi fun l _ _ => by omega
    by_cases hc : LastProbe p src O i
    · rw [(scanLoop_exact_turn hr hn).1 hc]
    · rw [(scanLoop_exact_turn hr hn).2 hc]
      have h6 : i < 6 := by
        by_contra h
        exact hc (.inl (by omega))
      refine ih (i + 1) _ (atProbe_after ..) (by omega) fun j h1 h2 h3 => hj j (by omega) h2 fun l h4 h5 => ?_
      by_cases hl : l = i
      · rw [hl]
        exact hc
      · exact h3 l (by omega) h5

/-! ### What a scan leaves in `W`, `HC`, the cursor and the counters -/

/-- The word the source holds at an integer offset. -/
def WordAt (src : Memory) (c : Int) (w : Word) : Prop :=
  ∃ b0 b1 b2 b3, BytesAt src c b0 b1 b2 b3 ∧ w = wordOfBytes b0 b1 b2 b3

/-- A header decoded by a hit stands at the cursor, in `W` and in `HC`. -/
theorem record_of_hit {src : Memory} {r : ScanRun} {w : Word} {h : HeaderRec} (ha : attemptAt src r.cursor = .hit w h) :
    (r.record (.hit w h)).w = some w ∧ (r.record (.hit w h)).hc = some h ∧ WordAt src r.cursor w ∧
    decodeWord w = .ok h := by
  refine ⟨rfl, rfl, ?_⟩
  unfold attemptAt at ha
  split at ha
  · cases ha
  · rcases hr : memRead src r.cursor.toNat 4 with _ | bs
    · rw [hr] at ha
      cases ha
    · obtain ⟨b0, b1, b2, b3, rfl⟩ := memRead_four hr
      rw [hr, attemptOn_bytes] at ha
      split at ha
      · split at ha
        · rename_i hd
          cases ha
          exact ⟨⟨b0, b1, b2, b3, ⟨by omega, hr⟩, rfl⟩, hd⟩
        · cases ha
      · cases ha

/-- A failed attempt writes no `HC`, and `W` only with the word it has read. -/
theorem record_of_miss {src : Memory} {r : ScanRun} (ha : ∀ w h, attemptAt src r.cursor ≠ .hit w h) :
    (r.record (attemptAt src r.cursor)).hc = r.hc ∧
    ((r.record (attemptAt src r.cursor)).w = r.w ∨
      ∃ w, WordAt src r.cursor w ∧ (r.record (attemptAt src r.cursor)).w = some w) := by
  unfold attemptAt at ha ⊢
  split
  · exact ⟨rfl, .inl rfl⟩
  · rename_i hc
    rw [if_neg hc] at ha
    rcases hr : memRead src r.cursor.toNat 4 with _ | bs
    · exact ⟨rfl, .inl rfl⟩
    · obtain ⟨b0, b1, b2, b3, rfl⟩ := memRead_four hr
      have hw : WordAt src r.cursor (wordOfBytes b0 b1 b2 b3) := ⟨b0, b1, b2, b3, ⟨by omega, hr⟩, rfl⟩
      rw [hr, attemptOn_bytes] at ha
      rw [attemptOn_bytes]
      split
      · rename_i hca
        rw [if_pos hca] at ha
        split
        · rename_i h hd
          rw [hd] at ha
          exact absurd rfl (ha _ h)
        · exact ⟨rfl, .inr ⟨_, hw, rfl⟩⟩
      · exact ⟨rfl, .inr ⟨_, hw, rfl⟩⟩

/-- What a scan leaves by its result (R155): after a hit the word and the header at the cursor, found or mismatched; after an
exhausted scan `HC` untouched, and `W` untouched or a word of the source. -/
def ScanLeaves (src : Memory) (r : ScanRun) (x : ScanResult × ScanRun) : Prop :=
  match x.1 with
  | .ok (h, c) => x.2.cursor = c ∧ x.2.hc = some h ∧ ∃ w, WordAt src c w ∧ x.2.w = some w
  | .error k =>
    (k = .chainMismatch ∧
      ∃ w h, WordAt src x.2.cursor w ∧ decodeWord w = .ok h ∧ x.2.hc = some h ∧ x.2.w = some w) ∨
    (k = .scanExhausted ∧ x.2.hc = r.hc ∧ (x.2.w = r.w ∨ ∃ c w, WordAt src c w ∧ x.2.w = some w))

theorem scanLeaves_hit {src : Memory} {r : ScanRun} {w : Word} {h : HeaderRec} (base : Option HeaderRec)
    (ha : attemptAt src r.cursor = .hit w h) :
    ScanLeaves src r (atFirstHit base h r.cursor, r.record (.hit w h)) := by
  obtain ⟨h1, h2, h3, h4⟩ := record_of_hit ha
  have found : ScanLeaves src r (.ok (h, r.cursor), r.record (.hit w h)) := ⟨rfl, h2, w, h3, h1⟩
  cases base with
  | none => exact found
  | some hb =>
    simp only [atFirstHit]
    split
    · exact found
    · exact .inl ⟨rfl, w, h, h3, h4, h2, h1⟩

/-- What a scan leaves does not depend on failed attempts made before it. -/
theorem scanLeaves_of_miss {src : Memory} {r r' : ScanRun} {x : ScanResult × ScanRun}
    (hc : r'.hc = r.hc) (hw : r'.w = r.w ∨ ∃ c w, WordAt src c w ∧ r'.w = some w) (hx : ScanLeaves src r' x) :
    ScanLeaves src r x := by
  unfold ScanLeaves at hx ⊢
  split at hx
  · exact hx
  · rcases hx with hx | ⟨h1, h2, h3⟩
    · exact .inl hx
    · refine .inr ⟨h1, h2.trans hc, ?_⟩
      rcases h3 with h3 | h3
      · rw [h3]
        exact hw
      · exact .inr h3

theorem scanLoop_leaves {p : Params} {src : Memory} {exact : Bool} {base : Option HeaderRec} :
    ∀ (fuel : Nat) (r : ScanRun), ScanLeaves src r (scanLoop p src exact base fuel r) := by
  intro fuel
  induction fuel with
  | zero => exact fun r => .inr ⟨rfl, rfl, .inl rfl⟩
  | succ f ih =>
    intro r
    by_cases hh : ∃ w h, attemptAt src r.cursor = .hit w h
    · obtain ⟨w, h, ha⟩ := hh
      rw [scanLoop_hit ha]
      exact scanLeaves_hit base ha
    · have ha : ∀ w h, attemptAt src r.cursor ≠ .hit w h := fun w h e => hh ⟨w, h, e⟩
      obtain ⟨hc, hw⟩ := record_of_miss ha
      have hw' : (r.record (attemptAt src r.cursor)).w = r.w ∨
          ∃ c w, WordAt src c w ∧ (r.record (attemptAt src r.cursor)).w = some w :=
        hw.imp_right fun ⟨w, h⟩ => ⟨_, w, h⟩
      cases exact
      · rw [scanLoop_forward_miss ha]
        dsimp only
        split
        · exact .inr ⟨rfl, hc, hw'⟩
        · exact scanLeaves_of_miss hc hw' (ih _)
      · rw [scanLoop_exact_miss ha]
        dsimp only
        split
        · exact .inr ⟨rfl, hc, hw'⟩
        · exact scanLeaves_of_miss hc hw' (ih _)

/-- An exact-offset scan counts no failed forward attempt. -/
theorem scanLoop_exact_n {p : Params} {src : Memory} {base : Option HeaderRec} :
    ∀ (fuel : Nat) (r : ScanRun), (scanLoop p src true base fuel r).2.n = r.n := by
  intro fuel
  induction fuel with
  | zero => exact fun _ => rfl
  | succ f ih =>
    intro r
    have hn := (record_counters (attemptAt src r.cursor) r).2.2.1
    by_cases hh : ∃ w h, attemptAt src r.cursor = .hit w h
    · obtain ⟨w, h, ha⟩ := hh
      rw [scanLoop_hit ha]
      exact (record_counters _ r).2.2.1
    · rw [scanLoop_exact_miss fun w h e => hh ⟨w, h, e⟩]
      dsimp only
      split
      · exact hn
      · rw [ih]
        exact hn

/-- An exhausted forward scan has counted to 16384 and stands at its last offset. -/
theorem scanLoop_forward_exhausted {p : Params} {src : Memory} {base : Option HeaderRec} :
    ∀ (fuel : Nat) (r : ScanRun), r.n < 16384 → 16384 ≤ r.n + fuel →
      (scanLoop p src false base fuel r).1 = .error .scanExhausted →
      (scanLoop p src false base fuel r).2.n = 16384 ∧
      (scanLoop p src false base fuel r).2.cursor + r.n = r.cursor + 16383 := by
  intro fuel
  induction fuel with
  | zero => intro r h1 h2; omega
  | succ f ih =>
    intro r h1 h2
    by_cases hh : ∃ w h, attemptAt src r.cursor = .hit w h
    · obtain ⟨w, h, ha⟩ := hh
      rw [scanLoop_hit ha]
      cases base <;> simp only [atFirstHit]
      · intro he
        cases he
      · split <;> intro he <;> cases he
    · rw [scanLoop_forward_miss fun w h e => hh ⟨w, h, e⟩]
      obtain ⟨c1, _, c3, _, _⟩ := record_counters (attemptAt src r.cursor) r
      dsimp only
      rw [c1, c3]
      have hm : Config.maxScanRange = 16384 := rfl
      by_cases hl : Config.maxScanRange ≤ r.n + 1
      · rw [if_pos hl]
        exact fun _ => ⟨by dsimp only; omega, by dsimp only; omega⟩
      · rw [if_neg hl]
        intro he
        obtain ⟨h3, h4⟩ := ih _ (by dsimp only; omega) (by dsimp only; omega) he
        refine ⟨h3, ?_⟩
        dsimp only at h4
        omega

/-- A forward scan ends where its count says: `n` steps beyond its start, and below 16384 when it ends on a header. -/
theorem scanLoop_forward_cursor {p : Params} {src : Memory} {base : Option HeaderRec} :
    ∀ (fuel : Nat) (r : ScanRun), r.n < 16384 →
      (scanLoop p src false base fuel r).1 ≠ .error .scanExhausted →
      (scanLoop p src false base fuel r).2.n < 16384 ∧
      (scanLoop p src false base fuel r).2.cursor + r.n = r.cursor + (scanLoop p src false base fuel r).2.n := by
  intro fuel
  induction fuel with
  | zero => exact fun _ _ h => absurd rfl h
  | succ f ih =>
    intro r h1
    by_cases hh : ∃ w h, attemptAt src r.cursor = .hit w h
    · obtain ⟨w, h, ha⟩ := hh
      rw [scanLoop_hit ha]
      exact fun _ => ⟨h1, rfl⟩
    · rw [scanLoop_forward_miss fun w h e => hh ⟨w, h, e⟩]
      obtain ⟨c1, _, c3, _, _⟩ := record_counters (attemptAt src r.cursor) r
      dsimp only
      rw [c1, c3]
      have hm : Config.maxScanRange = 16384 := rfl
      by_cases hl : Config.maxScanRange ≤ r.n + 1
      · rw [if_pos hl]
        exact fun h => absurd rfl h
      · rw [if_neg hl]
        intro he
        obtain ⟨h3, h4⟩ := ih _ (by dsimp only; omega) he
        refine ⟨h3, ?_⟩
        dsimp only at h4
        omega

/-- An exact-offset scan ends at one of its seven offsets, with `step` one more than its number. -/
theorem scanLoop_exact_probe {p : Params} {src : Memory} {base : Option HeaderRec} {O : Int} :
    ∀ (fuel i : Nat) (r : ScanRun), AtProbe p O i r → i ≤ 6 → 7 ≤ i + fuel →
      ∃ k, k ≤ 6 ∧ AtProbe p O k (scanLoop p src true base fuel r).2 := by
  intro fuel
  induction fuel with
  | zero => intro i r _ h1 h2; omega
  | succ f ih =>
    intro i r hr h1 h2
    obtain ⟨c1, c2, _, c4, _⟩ := record_counters (attemptAt src (probePosition p.probeMode O i)) r
    have stay : AtProbe p O i (r.record (attemptAt src (probePosition p.probeMode O i))) :=
      ⟨c2.trans hr.1, c4.trans hr.2.1, c1.trans hr.2.2⟩
    by_cases hh : ∃ w h, attemptAt src (probePosition p.probeMode O i) = .hit w h
    · obtain ⟨w, h, ha⟩ := hh
      rw [ha] at stay
      rw [← hr.2.2] at ha
      rw [scanLoop_hit ha]
      exact ⟨i, h1, stay⟩
    · have hn : NoHeaderAt src (probePosition p.probeMode O i) := fun h hd => by
        obtain ⟨w, ha⟩ := attemptAt_hit hd
        exact hh ⟨w, h, ha⟩
      by_cases hl : LastProbe p src O i
      · rw [(scanLoop_exact_turn hr hn).1 hl]
        exact ⟨i, h1, stay⟩
      · rw [(scanLoop_exact_turn hr hn).2 hl]
        have h6 : i < 6 := by
          by_contra h
          exact hl (.inl (by omega))
        exact ih (i + 1) _ (atProbe_after ..) (by omega) (by omega)

/-- An exact-offset scan that a Short read does not end has, when exhausted, `step = 7` and its last offset. -/
theorem scanLoop_exact_exhausted {p : Params} {src : Memory} {base : Option HeaderRec} {O : Int}
    (he : p.eosPolicy = .failedAttempt) :
    ∀ (fuel i : Nat) (r : ScanRun), AtProbe p O i r → i ≤ 6 → 7 ≤ i + fuel →
      (scanLoop p src true base fuel r).1 = .error .scanExhausted →
      AtProbe p O 6 (scanLoop p src true base fuel r).2 := by
  intro fuel
  induction fuel with
  | zero => intro i r _ h1 h2; omega
  | succ f ih =>
    intro i r hr h1 h2
    by_cases hh : ∃ w h, attemptAt src r.cursor = .hit w h
    · obtain ⟨w, h, ha⟩ := hh
      rw [scanLoop_hit ha]
      cases base <;> simp only [atFirstHit]
      · intro hx
        cases hx
      · split <;> intro hx <;> cases hx
    · have hn : NoHeaderAt src (probePosition p.probeMode O i) := fun h hd => by
        obtain ⟨w, ha⟩ := attemptAt_hit hd
        rw [← hr.2.2] at ha
        exact hh ⟨w, h, ha⟩
      by_cases hl : LastProbe p src O i
      · rw [(scanLoop_exact_turn hr hn).1 hl]
        intro _
        obtain rfl : i = 6 := by
          rcases hl with hl | ⟨hl, _⟩
          · omega
          · rw [he] at hl
            cases hl
        obtain ⟨c1, c2, _, c4, _⟩ := record_counters (attemptAt src (probePosition p.probeMode O 6)) r
        exact ⟨c2.trans hr.1, c4.trans hr.2.1, c1.trans hr.2.2⟩
      · rw [(scanLoop_exact_turn hr hn).2 hl]
        have h6 : i < 6 := by
          by_contra h
          exact hl (.inl (by omega))
        exact ih (i + 1) _ (atProbe_after ..) (by omega) (by omega)

end Sys2Proof.Machine
end

