-- ==== Sys2Proof/Tests/Slice0.lean ====
section
/-! SUPPORT. Tests: an ill-formed term for each check of WellFormed, a word for each constructor written out from
spec/30_encoding.md, one step of each constructor with numbers from spec/95_test_vectors.md, and a witness for the
hypotheses of each statement. -/

namespace Sys2Proof.Tests

open Sys2Proof Sys2Proof.Machine

/-! ### Helpers -/

/-- The ten fields of a header, in the order of R71. -/
def hf (prot : BitVec 1) (bitrate : BitVec 4) (srate : BitVec 2) (pad priv : BitVec 1) (cmode mext : BitVec 2)
    (copy orig : BitVec 1) (emph : BitVec 2) : HdrFields :=
  { prot := prot, bitrate := bitrate, srate := srate, pad := pad, priv := priv, cmode := cmode, mext := mext
    copy := copy, orig := orig, emph := emph }

/-- The state a step or a row answers. -/
def after (o : Host.Outcome State Fault Refusal) : Option State :=
  match o with
  | .next t => some t
  | .fault _ => none
  | .refused _ => none

/-- A source of `len` bytes, zero but for `bs` at `a`. -/
def source (len a : Nat) (bs : List Byte) : Memory := { ({ len := 0, cells := [] } : Memory).setBytes a bs with len := len }

/-- H0 of spec/95_test_vectors.md: `FF FB 90 00`, 417 bytes. -/
def H0 : HeaderRec := assembleHeader 3 2 (hf 1 9 0 0 0 0 0 0 0 0)

/-- `FF FB 94 00`: 48000 Hz, so it does not match H0. -/
def H48 : HeaderRec := assembleHeader 3 2 (hf 1 9 1 0 0 0 0 0 0 0)

/-- `F0 F0`: two frames of H0, 834 bytes (program P1). -/
def twoFrames : Memory := { ({ len := 0, cells := [] } : Memory).setBytes 0 [0xFF, 0xFB, 0x90, 0x00] with len := 834 }.setBytes 417
  [0xFF, 0xFB, 0x90, 0x00]

/-- A detection in its forward scan over a source. -/
def inScan1 (src : Memory) : State :=
  { State.reset with phase := .scan1, busy := true, findsub := true, src := src }

/-- A detection in its exact-offset scan at 417 with H0 as baseline. -/
def inScan2 (src : Memory) : State :=
  { State.reset with
    phase := .scan2, busy := true, exact := true, hbValid := true, hb := H0, hc := H0, fsize := 417, pc := 417
    origin := 417, src := src }

/-- IDLE with a source, and `start` asserted. -/
def started (src : Memory) : State := { State.reset with start := true, src := src }

/-- IDLE with a unit's operands: HC and HB are H0, and the source is `F0 F0`. -/
def unitState : State := { State.reset with src := twoFrames, w := 0xFFFB9000, hc := H0, hb := H0, hbValid := true }

/-! ### WellFormed refuses -/

theorem test_wellFormed_hdrMpeg1L1 :
    (Instr.hdrMpeg1L1 (hf 1 15 0 0 0 0 0 0 0 0)).wellFormed = false ∧ (Instr.hdrMpeg1L1 (hf 1 0 0 0 0 0 0 0 0 0)).wellFormed = false ∧
    (Instr.hdrMpeg1L1 (hf 1 9 3 0 0 0 0 0 0 0)).wellFormed = false ∧ (Instr.hdrMpeg1L1 (hf 1 9 0 0 0 0 0 0 0 2)).wellFormed = false := by
  decide

theorem test_wellFormed_hdrMpeg1L2 :
    (Instr.hdrMpeg1L2 (hf 1 15 0 0 0 0 0 0 0 0)).wellFormed = false ∧ (Instr.hdrMpeg1L2 (hf 1 0 0 0 0 0 0 0 0 0)).wellFormed = false ∧
    (Instr.hdrMpeg1L2 (hf 1 9 3 0 0 0 0 0 0 0)).wellFormed = false ∧ (Instr.hdrMpeg1L2 (hf 1 9 0 0 0 0 0 0 0 2)).wellFormed = false := by
  decide

theorem test_wellFormed_hdrMpeg1L3 :
    (Instr.hdrMpeg1L3 (hf 1 15 0 0 0 0 0 0 0 0)).wellFormed = false ∧ (Instr.hdrMpeg1L3 (hf 1 0 0 0 0 0 0 0 0 0)).wellFormed = false ∧
    (Instr.hdrMpeg1L3 (hf 1 9 3 0 0 0 0 0 0 0)).wellFormed = false ∧ (Instr.hdrMpeg1L3 (hf 1 9 0 0 0 0 0 0 0 2)).wellFormed = false := by
  decide

theorem test_wellFormed_hdrMpeg2L1 :
    (Instr.hdrMpeg2L1 (hf 1 15 0 0 0 0 0 0 0 0)).wellFormed = false ∧ (Instr.hdrMpeg2L1 (hf 1 0 0 0 0 0 0 0 0 0)).wellFormed = false ∧
    (Instr.hdrMpeg2L1 (hf 1 9 3 0 0 0 0 0 0 0)).wellFormed = false ∧ (Instr.hdrMpeg2L1 (hf 1 9 0 0 0 0 0 0 0 2)).wellFormed = false := by
  decide

theorem test_wellFormed_hdrMpeg2L2 :
    (Instr.hdrMpeg2L2 (hf 1 15 0 0 0 0 0 0 0 0)).wellFormed = false ∧ (Instr.hdrMpeg2L2 (hf 1 0 0 0 0 0 0 0 0 0)).wellFormed = false ∧
    (Instr.hdrMpeg2L2 (hf 1 9 3 0 0 0 0 0 0 0)).wellFormed = false ∧ (Instr.hdrMpeg2L2 (hf 1 9 0 0 0 0 0 0 0 2)).wellFormed = false := by
  decide

theorem test_wellFormed_hdrMpeg2L3 :
    (Instr.hdrMpeg2L3 (hf 1 15 0 0 0 0 0 0 0 0)).wellFormed = false ∧ (Instr.hdrMpeg2L3 (hf 1 0 0 0 0 0 0 0 0 0)).wellFormed = false ∧
    (Instr.hdrMpeg2L3 (hf 1 9 3 0 0 0 0 0 0 0)).wellFormed = false ∧ (Instr.hdrMpeg2L3 (hf 1 9 0 0 0 0 0 0 0 2)).wellFormed = false := by
  decide

theorem test_wellFormed_hdrMpeg25L1 :
    (Instr.hdrMpeg25L1 (hf 1 15 0 0 0 0 0 0 0 0)).wellFormed = false ∧ (Instr.hdrMpeg25L1 (hf 1 0 0 0 0 0 0 0 0 0)).wellFormed = false ∧
    (Instr.hdrMpeg25L1 (hf 1 9 3 0 0 0 0 0 0 0)).wellFormed = false ∧ (Instr.hdrMpeg25L1 (hf 1 9 0 0 0 0 0 0 0 2)).wellFormed = false := by
  decide

theorem test_wellFormed_hdrMpeg25L2 :
    (Instr.hdrMpeg25L2 (hf 1 15 0 0 0 0 0 0 0 0)).wellFormed = false ∧ (Instr.hdrMpeg25L2 (hf 1 0 0 0 0 0 0 0 0 0)).wellFormed = false ∧
    (Instr.hdrMpeg25L2 (hf 1 9 3 0 0 0 0 0 0 0)).wellFormed = false ∧ (Instr.hdrMpeg25L2 (hf 1 9 0 0 0 0 0 0 0 2)).wellFormed = false := by
  decide

theorem test_wellFormed_hdrMpeg25L3 :
    (Instr.hdrMpeg25L3 (hf 1 15 0 0 0 0 0 0 0 0)).wellFormed = false ∧ (Instr.hdrMpeg25L3 (hf 1 0 0 0 0 0 0 0 0 0)).wellFormed = false ∧
    (Instr.hdrMpeg25L3 (hf 1 9 3 0 0 0 0 0 0 0)).wellFormed = false ∧ (Instr.hdrMpeg25L3 (hf 1 9 0 0 0 0 0 0 0 2)).wellFormed = false := by
  decide

theorem test_wellFormed_hdrMpeg1L2_cells :
    (Instr.hdrMpeg1L2 (hf 1 1 0 0 0 0 0 0 0 0)).wellFormed = false ∧ (Instr.hdrMpeg1L2 (hf 1 2 0 0 0 1 0 0 0 0)).wellFormed = false ∧
    (Instr.hdrMpeg1L2 (hf 1 3 0 0 0 2 0 0 0 0)).wellFormed = false ∧ (Instr.hdrMpeg1L2 (hf 1 5 0 0 0 0 0 0 0 0)).wellFormed = false ∧
    (Instr.hdrMpeg1L2 (hf 1 11 0 0 0 3 0 0 0 0)).wellFormed = false ∧
    (Instr.hdrMpeg1L2 (hf 1 12 0 0 0 3 0 0 0 0)).wellFormed = false ∧
    (Instr.hdrMpeg1L2 (hf 1 13 0 0 0 3 0 0 0 0)).wellFormed = false ∧
    (Instr.hdrMpeg1L2 (hf 1 14 0 0 0 3 0 0 0 0)).wellFormed = false := by
  decide

/-- A defect of an earlier step, or the fixed field at another value. -/
theorem test_wellFormed_rejects :
    (Instr.hdrRejectVersionReserved 1 (hf 1 15 0 0 0 0 0 0 0 0)).wellFormed = false ∧
    (Instr.hdrRejectLayerReserved 1 (hf 1 9 0 0 0 0 0 0 0 0)).wellFormed = false ∧
    (Instr.hdrRejectLayerReserved 3 (hf 1 15 0 0 0 0 0 0 0 0)).wellFormed = false ∧
    (Instr.hdrRejectBitrateIndex15 3 1 (hf 1 9 0 0 0 0 0 0 0 0)).wellFormed = false ∧
    (Instr.hdrRejectBitrateIndex0 3 1 (hf 1 9 0 0 0 0 0 0 0 0)).wellFormed = false ∧
    (Instr.hdrRejectBitrateIndex0 1 1 (hf 1 0 0 0 0 0 0 0 0 0)).wellFormed = false ∧
    (Instr.hdrRejectBitrateIndex0 3 0 (hf 1 0 0 0 0 0 0 0 0 0)).wellFormed = false := by
  decide

theorem test_wellFormed_rejects_late :
    (Instr.hdrRejectSamplerateIndex3 3 1 (hf 1 9 0 0 0 0 0 0 0 0)).wellFormed = false ∧
    (Instr.hdrRejectSamplerateIndex3 1 1 (hf 1 9 3 0 0 0 0 0 0 0)).wellFormed = false ∧
    (Instr.hdrRejectSamplerateIndex3 3 0 (hf 1 9 3 0 0 0 0 0 0 0)).wellFormed = false ∧
    (Instr.hdrRejectSamplerateIndex3 3 1 (hf 1 0 3 0 0 0 0 0 0 0)).wellFormed = false ∧
    (Instr.hdrRejectSamplerateIndex3 3 1 (hf 1 15 3 0 0 0 0 0 0 0)).wellFormed = false ∧
    (Instr.hdrRejectEmphasisReserved 3 1 (hf 1 9 0 0 0 0 0 0 0 0)).wellFormed = false ∧
    (Instr.hdrRejectEmphasisReserved 3 1 (hf 1 9 3 0 0 0 0 0 0 2)).wellFormed = false ∧
    (Instr.hdrRejectEmphasisReserved 1 1 (hf 1 9 0 0 0 0 0 0 0 2)).wellFormed = false ∧
    (Instr.hdrRejectEmphasisReserved 3 0 (hf 1 9 0 0 0 0 0 0 0 2)).wellFormed = false ∧
    (Instr.hdrRejectEmphasisReserved 3 1 (hf 1 0 0 0 0 0 0 0 0 2)).wellFormed = false ∧
    (Instr.hdrRejectEmphasisReserved 3 1 (hf 1 15 0 0 0 0 0 0 0 2)).wellFormed = false := by
  decide

/-- Another index, another mode, a reserved sample rate, a reserved emphasis. -/
theorem test_wellFormed_cells :
    (Instr.hdrRejectM1l2Bi1Cm0 (hf 1 4 0 0 0 0 0 0 0 0)).wellFormed = false ∧ (Instr.hdrRejectM1l2Bi1Cm0 (hf 1 1 0 0 0 1 0 0 0 0)).wellFormed = false ∧
    (Instr.hdrRejectM1l2Bi1Cm0 (hf 1 1 3 0 0 0 0 0 0 0)).wellFormed = false ∧ (Instr.hdrRejectM1l2Bi1Cm0 (hf 1 1 0 0 0 0 0 0 0 2)).wellFormed = false ∧
    (Instr.hdrRejectM1l2Bi1Cm1 (hf 1 4 0 0 0 1 0 0 0 0)).wellFormed = false ∧ (Instr.hdrRejectM1l2Bi1Cm1 (hf 1 1 0 0 0 2 0 0 0 0)).wellFormed = false ∧
    (Instr.hdrRejectM1l2Bi1Cm1 (hf 1 1 3 0 0 1 0 0 0 0)).wellFormed = false ∧ (Instr.hdrRejectM1l2Bi1Cm1 (hf 1 1 0 0 0 1 0 0 0 2)).wellFormed = false ∧
    (Instr.hdrRejectM1l2Bi1Cm2 (hf 1 4 0 0 0 2 0 0 0 0)).wellFormed = false ∧ (Instr.hdrRejectM1l2Bi1Cm2 (hf 1 1 0 0 0 3 0 0 0 0)).wellFormed = false ∧
    (Instr.hdrRejectM1l2Bi1Cm2 (hf 1 1 3 0 0 2 0 0 0 0)).wellFormed = false ∧ (Instr.hdrRejectM1l2Bi1Cm2 (hf 1 1 0 0 0 2 0 0 0 2)).wellFormed = false ∧
    (Instr.hdrRejectM1l2Bi2Cm0 (hf 1 4 0 0 0 0 0 0 0 0)).wellFormed = false ∧ (Instr.hdrRejectM1l2Bi2Cm0 (hf 1 2 0 0 0 1 0 0 0 0)).wellFormed = false ∧
    (Instr.hdrRejectM1l2Bi2Cm0 (hf 1 2 3 0 0 0 0 0 0 0)).wellFormed = false ∧ (Instr.hdrRejectM1l2Bi2Cm0 (hf 1 2 0 0 0 0 0 0 0 2)).wellFormed = false ∧
    (Instr.hdrRejectM1l2Bi2Cm1 (hf 1 4 0 0 0 1 0 0 0 0)).wellFormed = false ∧ (Instr.hdrRejectM1l2Bi2Cm1 (hf 1 2 0 0 0 2 0 0 0 0)).wellFormed = false ∧
    (Instr.hdrRejectM1l2Bi2Cm1 (hf 1 2 3 0 0 1 0 0 0 0)).wellFormed = false ∧ (Instr.hdrRejectM1l2Bi2Cm1 (hf 1 2 0 0 0 1 0 0 0 2)).wellFormed = false ∧
    (Instr.hdrRejectM1l2Bi2Cm2 (hf 1 4 0 0 0 2 0 0 0 0)).wellFormed = false ∧ (Instr.hdrRejectM1l2Bi2Cm2 (hf 1 2 0 0 0 3 0 0 0 0)).wellFormed = false ∧
    (Instr.hdrRejectM1l2Bi2Cm2 (hf 1 2 3 0 0 2 0 0 0 0)).wellFormed = false ∧ (Instr.hdrRejectM1l2Bi2Cm2 (hf 1 2 0 0 0 2 0 0 0 2)).wellFormed = false ∧
    (Instr.hdrRejectM1l2Bi3Cm0 (hf 1 4 0 0 0 0 0 0 0 0)).wellFormed = false ∧ (Instr.hdrRejectM1l2Bi3Cm0 (hf 1 3 0 0 0 1 0 0 0 0)).wellFormed = false ∧
    (Instr.hdrRejectM1l2Bi3Cm0 (hf 1 3 3 0 0 0 0 0 0 0)).wellFormed = false ∧ (Instr.hdrRejectM1l2Bi3Cm0 (hf 1 3 0 0 0 0 0 0 0 2)).wellFormed = false ∧
    (Instr.hdrRejectM1l2Bi3Cm1 (hf 1 4 0 0 0 1 0 0 0 0)).wellFormed = false ∧ (Instr.hdrRejectM1l2Bi3Cm1 (hf 1 3 0 0 0 2 0 0 0 0)).wellFormed = false ∧
    (Instr.hdrRejectM1l2Bi3Cm1 (hf 1 3 3 0 0 1 0 0 0 0)).wellFormed = false ∧ (Instr.hdrRejectM1l2Bi3Cm1 (hf 1 3 0 0 0 1 0 0 0 2)).wellFormed = false ∧
    (Instr.hdrRejectM1l2Bi3Cm2 (hf 1 4 0 0 0 2 0 0 0 0)).wellFormed = false ∧ (Instr.hdrRejectM1l2Bi3Cm2 (hf 1 3 0 0 0 3 0 0 0 0)).wellFormed = false ∧
    (Instr.hdrRejectM1l2Bi3Cm2 (hf 1 3 3 0 0 2 0 0 0 0)).wellFormed = false ∧ (Instr.hdrRejectM1l2Bi3Cm2 (hf 1 3 0 0 0 2 0 0 0 2)).wellFormed = false ∧
    (Instr.hdrRejectM1l2Bi5Cm0 (hf 1 4 0 0 0 0 0 0 0 0)).wellFormed = false ∧ (Instr.hdrRejectM1l2Bi5Cm0 (hf 1 5 0 0 0 1 0 0 0 0)).wellFormed = false ∧
    (Instr.hdrRejectM1l2Bi5Cm0 (hf 1 5 3 0 0 0 0 0 0 0)).wellFormed = false ∧ (Instr.hdrRejectM1l2Bi5Cm0 (hf 1 5 0 0 0 0 0 0 0 2)).wellFormed = false ∧
    (Instr.hdrRejectM1l2Bi5Cm1 (hf 1 4 0 0 0 1 0 0 0 0)).wellFormed = false ∧ (Instr.hdrRejectM1l2Bi5Cm1 (hf 1 5 0 0 0 2 0 0 0 0)).wellFormed = false ∧
    (Instr.hdrRejectM1l2Bi5Cm1 (hf 1 5 3 0 0 1 0 0 0 0)).wellFormed = false ∧ (Instr.hdrRejectM1l2Bi5Cm1 (hf 1 5 0 0 0 1 0 0 0 2)).wellFormed = false ∧
    (Instr.hdrRejectM1l2Bi5Cm2 (hf 1 4 0 0 0 2 0 0 0 0)).wellFormed = false ∧ (Instr.hdrRejectM1l2Bi5Cm2 (hf 1 5 0 0 0 3 0 0 0 0)).wellFormed = false ∧
    (Instr.hdrRejectM1l2Bi5Cm2 (hf 1 5 3 0 0 2 0 0 0 0)).wellFormed = false ∧ (Instr.hdrRejectM1l2Bi5Cm2 (hf 1 5 0 0 0 2 0 0 0 2)).wellFormed = false ∧
    (Instr.hdrRejectM1l2Bi11Mono (hf 1 4 0 0 0 3 0 0 0 0)).wellFormed = false ∧ (Instr.hdrRejectM1l2Bi11Mono (hf 1 11 0 0 0 0 0 0 0 0)).wellFormed = false ∧
    (Instr.hdrRejectM1l2Bi11Mono (hf 1 11 3 0 0 3 0 0 0 0)).wellFormed = false ∧ (Instr.hdrRejectM1l2Bi11Mono (hf 1 11 0 0 0 3 0 0 0 2)).wellFormed = false ∧
    (Instr.hdrRejectM1l2Bi12Mono (hf 1 4 0 0 0 3 0 0 0 0)).wellFormed = false ∧ (Instr.hdrRejectM1l2Bi12Mono (hf 1 12 0 0 0 0 0 0 0 0)).wellFormed = false ∧
    (Instr.hdrRejectM1l2Bi12Mono (hf 1 12 3 0 0 3 0 0 0 0)).wellFormed = false ∧ (Instr.hdrRejectM1l2Bi12Mono (hf 1 12 0 0 0 3 0 0 0 2)).wellFormed = false ∧
    (Instr.hdrRejectM1l2Bi13Mono (hf 1 4 0 0 0 3 0 0 0 0)).wellFormed = false ∧ (Instr.hdrRejectM1l2Bi13Mono (hf 1 13 0 0 0 0 0 0 0 0)).wellFormed = false ∧
    (Instr.hdrRejectM1l2Bi13Mono (hf 1 13 3 0 0 3 0 0 0 0)).wellFormed = false ∧ (Instr.hdrRejectM1l2Bi13Mono (hf 1 13 0 0 0 3 0 0 0 2)).wellFormed = false ∧
    (Instr.hdrRejectM1l2Bi14Mono (hf 1 4 0 0 0 3 0 0 0 0)).wellFormed = false ∧ (Instr.hdrRejectM1l2Bi14Mono (hf 1 14 0 0 0 0 0 0 0 0)).wellFormed = false ∧
    (Instr.hdrRejectM1l2Bi14Mono (hf 1 14 3 0 0 3 0 0 0 0)).wellFormed = false ∧ (Instr.hdrRejectM1l2Bi14Mono (hf 1 14 0 0 0 3 0 0 0 2)).wellFormed = false := by
  decide

/-! ### Words written out from the encodings -/

/-- 11111111 11111110 11100001 00000000 -/
theorem test_decode_hdrMpeg1L1 : decodeTableWord 32 0xFFFEE100 = some (.hdrMpeg1L1 (hf 0 14 0 0 1 0 0 0 0 0)) := by decide

/-- 11111111 11111101 10000100 01000000 -/
theorem test_decode_hdrMpeg1L2 : decodeTableWord 32 0xFFFD8440 = some (.hdrMpeg1L2 (hf 1 8 1 0 0 1 0 0 0 0)) := by decide

/-- 11111111 11111011 10010010 01100100 -/
theorem test_decode_hdrMpeg1L3 : decodeTableWord 32 0xFFFB9264 = some (.hdrMpeg1L3 (hf 1 9 0 1 0 1 2 0 1 0)) := by decide

/-- 11111111 11110110 00010000 11000001 -/
theorem test_decode_hdrMpeg2L1 : decodeTableWord 32 0xFFF610C1 = some (.hdrMpeg2L1 (hf 0 1 0 0 0 3 0 0 0 1)) := by decide

/-- 11111111 11110100 10100101 10001011 -/
theorem test_decode_hdrMpeg2L2 : decodeTableWord 32 0xFFF4A58B = some (.hdrMpeg2L2 (hf 0 10 1 0 1 2 0 1 0 3)) := by decide

/-- 11111111 11110011 01000000 11000000 -/
theorem test_decode_hdrMpeg2L3 : decodeTableWord 32 0xFFF340C0 = some (.hdrMpeg2L3 (hf 1 4 0 0 0 3 0 0 0 0)) := by decide

/-- 11111111 11100111 11100010 11111111 -/
theorem test_decode_hdrMpeg25L1 : decodeTableWord 32 0xFFE7E2FF = some (.hdrMpeg25L1 (hf 1 14 0 1 0 3 3 1 1 3)) := by decide

/-- 11111111 11100101 11101010 00110011 -/
theorem test_decode_hdrMpeg25L2 : decodeTableWord 32 0xFFE5EA33 = some (.hdrMpeg25L2 (hf 1 14 2 1 0 0 3 0 0 3)) := by decide

/-- 11111111 11100011 00011000 11000100 -/
theorem test_decode_hdrMpeg25L3 : decodeTableWord 32 0xFFE318C4 = some (.hdrMpeg25L3 (hf 1 1 2 0 0 3 0 0 1 0)) := by decide

/-- 11111111 11101011 10010000 00000000 -/
theorem test_decode_hdrRejectVersionReserved : decodeTableWord 32 0xFFEB9000 = some (.hdrRejectVersionReserved 1 (hf 1 9 0 0 0 0 0 0 0 0)) := by decide

/-- 11111111 11111001 10010000 00000000 -/
theorem test_decode_hdrRejectLayerReserved : decodeTableWord 32 0xFFF99000 = some (.hdrRejectLayerReserved 3 (hf 1 9 0 0 0 0 0 0 0 0)) := by decide

/-- 11111111 11111011 11110001 00000000 -/
theorem test_decode_hdrRejectBitrateIndex15 : decodeTableWord 32 0xFFFBF100 = some (.hdrRejectBitrateIndex15 3 1 (hf 1 15 0 0 1 0 0 0 0 0)) := by decide

/-- 11111111 11111011 00000000 00000111 -/
theorem test_decode_hdrRejectBitrateIndex0 : decodeTableWord 32 0xFFFB0007 = some (.hdrRejectBitrateIndex0 3 1 (hf 1 0 0 0 0 0 0 0 1 3)) := by decide

/-- 11111111 11111111 00011110 00000000 -/
theorem test_decode_hdrRejectSamplerateIndex3 : decodeTableWord 32 0xFFFF1E00 = some (.hdrRejectSamplerateIndex3 3 3 (hf 1 1 3 1 0 0 0 0 0 0)) := by decide

/-- 11111111 11100011 10010000 00000010 -/
theorem test_decode_hdrRejectEmphasisReserved : decodeTableWord 32 0xFFE39002 = some (.hdrRejectEmphasisReserved 0 1 (hf 1 9 0 0 0 0 0 0 0 2)) := by decide

/-- 11111111 11111101 00010001 00101001 -/
theorem test_decode_hdrRejectM1l2Bi1Cm0 : decodeTableWord 32 0xFFFD1129 = some (.hdrRejectM1l2Bi1Cm0 (hf 1 1 0 0 1 0 2 1 0 1)) := by decide

/-- 11111111 11111101 00010001 01101001 -/
theorem test_decode_hdrRejectM1l2Bi1Cm1 : decodeTableWord 32 0xFFFD1169 = some (.hdrRejectM1l2Bi1Cm1 (hf 1 1 0 0 1 1 2 1 0 1)) := by decide

/-- 11111111 11111101 00010001 10101001 -/
theorem test_decode_hdrRejectM1l2Bi1Cm2 : decodeTableWord 32 0xFFFD11A9 = some (.hdrRejectM1l2Bi1Cm2 (hf 1 1 0 0 1 2 2 1 0 1)) := by decide

/-- 11111111 11111101 00100001 00101001 -/
theorem test_decode_hdrRejectM1l2Bi2Cm0 : decodeTableWord 32 0xFFFD2129 = some (.hdrRejectM1l2Bi2Cm0 (hf 1 2 0 0 1 0 2 1 0 1)) := by decide

/-- 11111111 11111101 00100001 01101001 -/
theorem test_decode_hdrRejectM1l2Bi2Cm1 : decodeTableWord 32 0xFFFD2169 = some (.hdrRejectM1l2Bi2Cm1 (hf 1 2 0 0 1 1 2 1 0 1)) := by decide

/-- 11111111 11111101 00100001 10101001 -/
theorem test_decode_hdrRejectM1l2Bi2Cm2 : decodeTableWord 32 0xFFFD21A9 = some (.hdrRejectM1l2Bi2Cm2 (hf 1 2 0 0 1 2 2 1 0 1)) := by decide

/-- 11111111 11111101 00110001 00101001 -/
theorem test_decode_hdrRejectM1l2Bi3Cm0 : decodeTableWord 32 0xFFFD3129 = some (.hdrRejectM1l2Bi3Cm0 (hf 1 3 0 0 1 0 2 1 0 1)) := by decide

/-- 11111111 11111101 00110001 01101001 -/
theorem test_decode_hdrRejectM1l2Bi3Cm1 : decodeTableWord 32 0xFFFD3169 = some (.hdrRejectM1l2Bi3Cm1 (hf 1 3 0 0 1 1 2 1 0 1)) := by decide

/-- 11111111 11111101 00110001 10101001 -/
theorem test_decode_hdrRejectM1l2Bi3Cm2 : decodeTableWord 32 0xFFFD31A9 = some (.hdrRejectM1l2Bi3Cm2 (hf 1 3 0 0 1 2 2 1 0 1)) := by decide

/-- 11111111 11111101 01010001 00101001 -/
theorem test_decode_hdrRejectM1l2Bi5Cm0 : decodeTableWord 32 0xFFFD5129 = some (.hdrRejectM1l2Bi5Cm0 (hf 1 5 0 0 1 0 2 1 0 1)) := by decide

/-- 11111111 11111101 01010001 01101001 -/
theorem test_decode_hdrRejectM1l2Bi5Cm1 : decodeTableWord 32 0xFFFD5169 = some (.hdrRejectM1l2Bi5Cm1 (hf 1 5 0 0 1 1 2 1 0 1)) := by decide

/-- 11111111 11111101 01010001 10101001 -/
theorem test_decode_hdrRejectM1l2Bi5Cm2 : decodeTableWord 32 0xFFFD51A9 = some (.hdrRejectM1l2Bi5Cm2 (hf 1 5 0 0 1 2 2 1 0 1)) := by decide

/-- 11111111 11111101 10110001 11101001 -/
theorem test_decode_hdrRejectM1l2Bi11Mono : decodeTableWord 32 0xFFFDB1E9 = some (.hdrRejectM1l2Bi11Mono (hf 1 11 0 0 1 3 2 1 0 1)) := by decide

/-- 11111111 11111101 11000001 11101001 -/
theorem test_decode_hdrRejectM1l2Bi12Mono : decodeTableWord 32 0xFFFDC1E9 = some (.hdrRejectM1l2Bi12Mono (hf 1 12 0 0 1 3 2 1 0 1)) := by decide

/-- 11111111 11111101 11010001 11101001 -/
theorem test_decode_hdrRejectM1l2Bi13Mono : decodeTableWord 32 0xFFFDD1E9 = some (.hdrRejectM1l2Bi13Mono (hf 1 13 0 0 1 3 2 1 0 1)) := by decide

/-- 11111111 11111101 11100001 11101001 -/
theorem test_decode_hdrRejectM1l2Bi14Mono : decodeTableWord 32 0xFFFDE1E9 = some (.hdrRejectM1l2Bi14Mono (hf 1 14 0 0 1 3 2 1 0 1)) := by decide

/-- "ID3", version 04 00, flags 1010 0101, size 00 00 02 01. -/
theorem test_decode_id3v2TagNoFooter : decodeTableWord 80 0x4944330400A500000201 = some (.id3v2TagNoFooter
    { verMajor := 4, verMinor := 0, flagsHigh := 5, flagsLow := 5, b6 := 0, b7 := 0, b8 := 2, b9 := 1 }) := by decide

/-- "ID3", version 03 07, flags 0101 0010, size 01 02 03 04. -/
theorem test_decode_id3v2TagFooter : decodeTableWord 80 0x49443303075201020304 = some (.id3v2TagFooter
    { verMajor := 3, verMinor := 7, flagsHigh := 2, flagsLow := 2, b6 := 1, b7 := 2, b8 := 3, b9 := 4 }) := by decide

theorem test_decode_detect : decodeTableWord 8 0 = some .detect := by decide

theorem test_decode_skiptag : decodeTableWord 8 1 = some .skiptag := by decide

theorem test_decode_findframe : decodeTableWord 8 2 = some .findframe := by decide

theorem test_decode_verify : decodeTableWord 8 3 = some .verify := by decide

theorem test_decode_decode : decodeTableWord 8 4 = some .decode := by decide

theorem test_decode_fsize : decodeTableWord 8 5 = some .fsize := by decide

theorem test_decode_matchHeaders : decodeTableWord 8 6 = some .matchHeaders := by decide

theorem test_decode_none :
    decodeTableWord 8 7 = none ∧ decodeTableWord 8 8 = none ∧ decodeTableWord 32 0xFFDB9000 = none ∧
    decodeTableWord 32 0xFEFB9000 = none ∧ decodeTableWord 80 0x69643304000000000201 = none := by decide

/-- A word with two defects is the row of the earlier one (V1: `FF E0 00 00` at step 3; `FF FF FF FF` index 15 first). -/
theorem test_decode_order :
    (decodeTableWord 32 0xFFE00000).bind rejectKind = some (some .invalidHeader) ∧
    decodeTableWord 32 0xFFE00000 = some (.hdrRejectLayerReserved 0 (hf 0 0 0 0 0 0 0 0 0 0)) ∧
    decodeTableWord 32 0xFFFFFFFF = some (.hdrRejectBitrateIndex15 3 3 (hf 1 15 3 1 1 3 3 1 1 3)) := by decide

/-! ### One step of each constructor

The expected numbers are from tables V1, V3, V6, V7 and V8 of spec/95_test_vectors.md, or worked by hand from the formula of R131
(Layer1 12, Layer2 144, MPEG1 Layer3 144, else 72). -/

theorem test_step_hdrMpeg1L1 :
    (after (step (State.reset.withFetchWord 32 0xFFFFE000))).map
      (fun t => (t.phase, t.pc.toNat, t.fsize.toNat, t.hc.bitrateBps.toNat, t.hb.sampleRateHz.toNat)) =
      some (.scan2, 484, 484, 448000, 44100) := by decide

theorem test_step_hdrMpeg1L2 :
    (after (step (State.reset.withFetchWord 32 0xFFFD8440))).map
      (fun t => (t.phase, t.pc.toNat, t.fsize.toNat, t.hc.bitrateBps.toNat, t.hb.sampleRateHz.toNat)) =
      some (.scan2, 384, 384, 128000, 48000) := by decide

theorem test_step_hdrMpeg1L3 :
    (after (step (State.reset.withFetchWord 32 0xFFFB9000))).map
      (fun t => (t.phase, t.pc.toNat, t.fsize.toNat, t.hc.bitrateBps.toNat, t.hb.sampleRateHz.toNat)) =
      some (.scan2, 417, 417, 128000, 44100) := by decide

theorem test_step_hdrMpeg2L1 :
    (after (step (State.reset.withFetchWord 32 0xFFF61000))).map
      (fun t => (t.phase, t.pc.toNat, t.fsize.toNat, t.hc.bitrateBps.toNat, t.hb.sampleRateHz.toNat)) =
      some (.scan2, 68, 68, 32000, 22050) := by decide

theorem test_step_hdrMpeg2L2 :
    (after (step (State.reset.withFetchWord 32 0xFFF4A400))).map
      (fun t => (t.phase, t.pc.toNat, t.fsize.toNat, t.hc.bitrateBps.toNat, t.hb.sampleRateHz.toNat)) =
      some (.scan2, 576, 576, 96000, 24000) := by decide

theorem test_step_hdrMpeg2L3 :
    (after (step (State.reset.withFetchWord 32 0xFFF340C0))).map
      (fun t => (t.phase, t.pc.toNat, t.fsize.toNat, t.hc.bitrateBps.toNat, t.hb.sampleRateHz.toNat)) =
      some (.scan2, 104, 104, 32000, 22050) := by decide

theorem test_step_hdrMpeg25L1 :
    (after (step (State.reset.withFetchWord 32 0xFFE7E2FF))).map
      (fun t => (t.phase, t.pc.toNat, t.fsize.toNat, t.hc.bitrateBps.toNat, t.hb.sampleRateHz.toNat)) =
      some (.scan2, 1116, 1116, 256000, 11025) := by decide

theorem test_step_hdrMpeg25L2 :
    (after (step (State.reset.withFetchWord 32 0xFFE5EA00))).map
      (fun t => (t.phase, t.pc.toNat, t.fsize.toNat, t.hc.bitrateBps.toNat, t.hb.sampleRateHz.toNat)) =
      some (.scan2, 2881, 2881, 160000, 8000) := by decide

theorem test_step_hdrMpeg25L3 :
    (after (step (State.reset.withFetchWord 32 0xFFE318C4))).map
      (fun t => (t.phase, t.pc.toNat, t.fsize.toNat, t.hc.bitrateBps.toNat, t.hb.sampleRateHz.toNat)) =
      some (.scan2, 72, 72, 8000, 8000) := by decide

theorem test_step_hdrRejectVersionReserved :
    (after (step (State.reset.withFetchWord 32 0xFFEB9000))).map
      (fun t => (t.phase, t.pc.toNat, t.n.toNat, t.w.toNat, t.lastFailure)) = some (.scan1, 1, 1, 0xFFEB9000, some .invalidHeader) := by decide

theorem test_step_hdrRejectLayerReserved :
    (after (step (State.reset.withFetchWord 32 0xFFF99000))).map
      (fun t => (t.phase, t.pc.toNat, t.n.toNat, t.w.toNat, t.lastFailure)) = some (.scan1, 1, 1, 0xFFF99000, some .invalidHeader) := by decide

theorem test_step_hdrRejectBitrateIndex15 :
    (after (step (State.reset.withFetchWord 32 0xFFFBF100))).map
      (fun t => (t.phase, t.pc.toNat, t.n.toNat, t.w.toNat, t.lastFailure)) = some (.scan1, 1, 1, 0xFFFBF100, none) := by decide

theorem test_step_hdrRejectBitrateIndex0 :
    (after (step (State.reset.withFetchWord 32 0xFFFB0007))).map
      (fun t => (t.phase, t.pc.toNat, t.n.toNat, t.w.toNat, t.lastFailure)) = some (.scan1, 1, 1, 0xFFFB0007, some .invalidHeader) := by decide

theorem test_step_hdrRejectSamplerateIndex3 :
    (after (step (State.reset.withFetchWord 32 0xFFFF1E00))).map
      (fun t => (t.phase, t.pc.toNat, t.n.toNat, t.w.toNat, t.lastFailure)) = some (.scan1, 1, 1, 0xFFFF1E00, some .invalidHeader) := by decide

theorem test_step_hdrRejectEmphasisReserved :
    (after (step (State.reset.withFetchWord 32 0xFFE39002))).map
      (fun t => (t.phase, t.pc.toNat, t.n.toNat, t.w.toNat, t.lastFailure)) = some (.scan1, 1, 1, 0xFFE39002, some .invalidHeader) := by decide

theorem test_step_hdrRejectM1l2Bi1Cm0 :
    (after (step (State.reset.withFetchWord 32 0xFFFD1129))).map
      (fun t => (t.phase, t.pc.toNat, t.n.toNat, t.w.toNat, t.lastFailure)) = some (.scan1, 1, 1, 0xFFFD1129, some .invalidHeader) := by decide

theorem test_step_hdrRejectM1l2Bi1Cm1 :
    (after (step (State.reset.withFetchWord 32 0xFFFD1169))).map
      (fun t => (t.phase, t.pc.toNat, t.n.toNat, t.w.toNat, t.lastFailure)) = some (.scan1, 1, 1, 0xFFFD1169, some .invalidHeader) := by decide

theorem test_step_hdrRejectM1l2Bi1Cm2 :
    (after (step (State.reset.withFetchWord 32 0xFFFD11A9))).map
      (fun t => (t.phase, t.pc.toNat, t.n.toNat, t.w.toNat, t.lastFailure)) = some (.scan1, 1, 1, 0xFFFD11A9, some .invalidHeader) := by decide

theorem test_step_hdrRejectM1l2Bi2Cm0 :
    (after (step (State.reset.withFetchWord 32 0xFFFD2129))).map
      (fun t => (t.phase, t.pc.toNat, t.n.toNat, t.w.toNat, t.lastFailure)) = some (.scan1, 1, 1, 0xFFFD2129, some .invalidHeader) := by decide

theorem test_step_hdrRejectM1l2Bi2Cm1 :
    (after (step (State.reset.withFetchWord 32 0xFFFD2169))).map
      (fun t => (t.phase, t.pc.toNat, t.n.toNat, t.w.toNat, t.lastFailure)) = some (.scan1, 1, 1, 0xFFFD2169, some .invalidHeader) := by decide

theorem test_step_hdrRejectM1l2Bi2Cm2 :
    (after (step (State.reset.withFetchWord 32 0xFFFD21A9))).map
      (fun t => (t.phase, t.pc.toNat, t.n.toNat, t.w.toNat, t.lastFailure)) = some (.scan1, 1, 1, 0xFFFD21A9, some .invalidHeader) := by decide

theorem test_step_hdrRejectM1l2Bi3Cm0 :
    (after (step (State.reset.withFetchWord 32 0xFFFD3129))).map
      (fun t => (t.phase, t.pc.toNat, t.n.toNat, t.w.toNat, t.lastFailure)) = some (.scan1, 1, 1, 0xFFFD3129, some .invalidHeader) := by decide

theorem test_step_hdrRejectM1l2Bi3Cm1 :
    (after (step (State.reset.withFetchWord 32 0xFFFD3169))).map
      (fun t => (t.phase, t.pc.toNat, t.n.toNat, t.w.toNat, t.lastFailure)) = some (.scan1, 1, 1, 0xFFFD3169, some .invalidHeader) := by decide

theorem test_step_hdrRejectM1l2Bi3Cm2 :
    (after (step (State.reset.withFetchWord 32 0xFFFD31A9))).map
      (fun t => (t.phase, t.pc.toNat, t.n.toNat, t.w.toNat, t.lastFailure)) = some (.scan1, 1, 1, 0xFFFD31A9, some .invalidHeader) := by decide

theorem test_step_hdrRejectM1l2Bi5Cm0 :
    (after (step (State.reset.withFetchWord 32 0xFFFD5129))).map
      (fun t => (t.phase, t.pc.toNat, t.n.toNat, t.w.toNat, t.lastFailure)) = some (.scan1, 1, 1, 0xFFFD5129, some .invalidHeader) := by decide

theorem test_step_hdrRejectM1l2Bi5Cm1 :
    (after (step (State.reset.withFetchWord 32 0xFFFD5169))).map
      (fun t => (t.phase, t.pc.toNat, t.n.toNat, t.w.toNat, t.lastFailure)) = some (.scan1, 1, 1, 0xFFFD5169, some .invalidHeader) := by decide

theorem test_step_hdrRejectM1l2Bi5Cm2 :
    (after (step (State.reset.withFetchWord 32 0xFFFD51A9))).map
      (fun t => (t.phase, t.pc.toNat, t.n.toNat, t.w.toNat, t.lastFailure)) = some (.scan1, 1, 1, 0xFFFD51A9, some .invalidHeader) := by decide

theorem test_step_hdrRejectM1l2Bi11Mono :
    (after (step (State.reset.withFetchWord 32 0xFFFDB1E9))).map
      (fun t => (t.phase, t.pc.toNat, t.n.toNat, t.w.toNat, t.lastFailure)) = some (.scan1, 1, 1, 0xFFFDB1E9, some .invalidHeader) := by decide

theorem test_step_hdrRejectM1l2Bi12Mono :
    (after (step (State.reset.withFetchWord 32 0xFFFDC1E9))).map
      (fun t => (t.phase, t.pc.toNat, t.n.toNat, t.w.toNat, t.lastFailure)) = some (.scan1, 1, 1, 0xFFFDC1E9, some .invalidHeader) := by decide

theorem test_step_hdrRejectM1l2Bi13Mono :
    (after (step (State.reset.withFetchWord 32 0xFFFDD1E9))).map
      (fun t => (t.phase, t.pc.toNat, t.n.toNat, t.w.toNat, t.lastFailure)) = some (.scan1, 1, 1, 0xFFFDD1E9, some .invalidHeader) := by decide

theorem test_step_hdrRejectM1l2Bi14Mono :
    (after (step (State.reset.withFetchWord 32 0xFFFDE1E9))).map
      (fun t => (t.phase, t.pc.toNat, t.n.toNat, t.w.toNat, t.lastFailure)) = some (.scan1, 1, 1, 0xFFFDE1E9, some .invalidHeader) := by decide

/-- V6 row 1. -/
theorem test_step_id3v2TagNoFooter :
    (after (step (State.reset.withFetchWord 80 0x49443304000000000201))).map (fun t => (t.phase, t.pc.toNat, t.t.toNat)) =
      some (.scan1, 267, 0x49443304000000000201) := by decide

/-- V6 rows 2 and 12 (here with the footer bit: the largest result there is). -/
theorem test_step_id3v2TagFooter :
    (after (step (State.reset.withFetchWord 80 0x49443304001000000201))).map (fun t => (t.phase, t.pc.toNat)) =
      some (.scan1, 277) ∧
    (after (step (State.reset.withFetchWord 80 0x4944330400FFFFFFFFFF))).map (fun t => t.pc.toNat) =
      some 0x20000013 := by decide

/-- V6 row 11: OR, not sum. -/
theorem test_syncsafe_or : syncsafe 0 0 0x81 0x80 = 16512 := by decide

/-- Program P1. -/
theorem test_step_detect :
    (after (step { State.reset with unitReq := some 0, src := twoFrames })).map
      (fun t => (t.verdict, t.done, t.busy, t.reads, t.pc.toNat)) = some (true, true, false, 3, 417) := by decide

/-- `FF FB 00 00 ZERO(6) F0 F0`, 844 bytes (program P8). -/
def falseCandidate : Memory :=
  (({ (({ len := 0, cells := [] } : Memory).setBytes 0 [0xFF, 0xFB]) with len := 844 }.setBytes 10 [0xFF, 0xFB, 0x90]).setBytes
    427 [0xFF, 0xFB, 0x90])

/-- Program P8: the count of the forward scan stands at the end. -/
theorem test_step_detect_count :
    (after (step { State.reset with unitReq := some 0, src := falseCandidate })).map
      (fun t => (t.verdict, t.n.toNat, t.reads, t.pc.toNat)) = some (true, 10, 13, 427) := by decide

/-- V6 row 1, from offset 7. -/
theorem test_step_skiptag :
    (after (step { State.reset with
      unitReq := some 1, pc := 7, src := source 30 7 [0x49, 0x44, 0x33, 4, 0, 0, 0, 0, 2, 1] })).map
      (fun t => (t.pc.toNat, t.unitResult)) = some (274, some (.offset 274)) := by decide

/-- V7e: near offset 0 the probe at -1 makes no read. -/
theorem test_step_findframe :
    (after (step { State.reset with
      unitReq := some 2, exact := true, src := source 6 2 [0xFF, 0xFB, 0x90, 0] })).map
      (fun t => (t.unitResult, t.pc.toNat, t.reads)) = some (some (.found H0 2), 2, 3) := by decide

/-- V7d row 1: a hard stop. -/
theorem test_findFrame_hardStop :
    findFrame Params.default (source 900 417 [0xFF, 0xFB, 0x94, 0]) 417 true (some H0) = .error .chainMismatch := by decide

/-- VERIFY alone on program P8's source: the inner FINDFRAME's entry clears `n` (R155). -/
theorem test_step_verify_count :
    (after (step { State.reset with unitReq := some 3, findsub := true, src := falseCandidate })).map
      (fun t => (t.n.toNat, t.pc.toNat)) = some (0, 427) := by decide

/-- V8 rows 1 and 4. -/
theorem test_step_verify :
    (after (step { State.reset with unitReq := some 3, findsub := true, src := twoFrames })).map (fun t => t.unitResult) =
      some (some (.bit true)) ∧
    (after (step { State.reset with
      unitReq := some 3, findsub := true, src := source 417 0 [0xFF, 0xFB, 0x90, 0] })).map (fun t => t.unitResult) =
      some (some (.bit false)) := by decide

/-- V1: `FF FD 48 00` decodes with allocation table 3; `FF FB 9C 00` does not. -/
theorem test_step_decode :
    (after (step { State.reset with unitReq := some 4, w := 0xFFFD4800 })).map
      (fun t => (t.hc.sampleRateHz.toNat, t.hc.allocationTableIndex)) = some (32000, some 3) ∧
    (after (step { State.reset with unitReq := some 4, w := 0xFFFB9C00 })).map (fun t => (t.unitResult, t.hc)) =
      some (some .invalidHeader, zeroHeader) := by decide

/-- V1: `FF FB A2 64` is 523 bytes. -/
theorem test_step_fsize :
    (after (step { State.reset with unitReq := some 5, hc := assembleHeader 3 2 (hf 1 10 0 1 0 1 2 0 1 0) })).map
      (fun t => t.fsize.toNat) = some 523 := by decide

/-- V5 rows 6, 10. -/
theorem test_step_matchHeaders :
    (after (step { unitState with unitReq := some 6, hc := assembleHeader 3 2 (hf 1 10 0 1 0 1 2 0 1 0) })).map
      (fun t => t.unitResult) = some (some (.bit true)) ∧
    (after (step { unitState with unitReq := some 6, hc := H48 })).map (fun t => t.unitResult) =
      some (some (.bit false)) := by decide

/-- A code that names no unit. -/
theorem test_step_unassigned :
    step { State.reset with unitReq := some 7 } = .refused (.unassignedUnit 7) := rfl

/-- Program P6, last step: the second header does not match. -/
theorem test_step_mismatch :
    (after (step (inScan2 (source 900 417 [0xFF, 0xFB, 0x94, 0])))).map
      (fun t => (t.phase, t.done, t.verdict, t.lastFailure)) = some (.idle, true, false, some .chainMismatch) := by decide

/-- V7c: the probes of both modes from 417. -/
theorem test_probe_offsets :
    (List.range 7).map (probePosition .cumulative 417) = [417, 418, 416, 419, 415, 420, 414] ∧
    (List.range 7).map (probePosition .absolute 417) = [417, 418, 415, 420, 413, 422, 411] := by decide

/-- V9. -/
theorem test_memRead :
    memRead (source 10 0 [0, 1, 2, 3, 4, 5, 6, 7, 8, 9]) 6 4 = .bytes [6, 7, 8, 9] ∧
    memRead (source 10 0 [0, 1, 2, 3, 4, 5, 6, 7, 8, 9]) 7 4 = .short ∧
    memRead (source 10 0 [0, 1, 2, 3, 4, 5, 6, 7, 8, 9]) 1 10 = .short := by decide

/-! ### Witnesses: for each statement with hypotheses, values that meet them together, clause by clause -/

theorem witness_DecodeOfEncode : (Instr.hdrMpeg1L2 (hf 1 14 2 1 1 2 3 1 1 3)).wellFormed = true := by decide

theorem witness_EncodeOfDecode :
    Sys2Proof.decode .id3v2Hdr80 [0x49, 0x44, 0x33, 4, 0, 0xFF, 0xFF, 0xFF, 0xFF, 0xFF] =
      .ok (.id3v2TagFooter
        { verMajor := 4, verMinor := 0, flagsHigh := 7, flagsLow := 15, b6 := 255, b7 := 255, b8 := 255, b9 := 255 }) ∧
    Sys2Proof.decode .unitOp [6] = .ok .matchHeaders := ⟨rfl, rfl⟩

/-- A valid row, a reject row and the row that is no candidate. -/
theorem witness_RowsAgreeWithDecoder :
    Sys2Proof.decode .mpegHdr32 [0xFF, 0xFB, 0x90, 0] = .ok (.hdrMpeg1L3 (hf 1 9 0 0 0 0 0 0 0 0)) ∧
    Sys2Proof.decode .mpegHdr32 [0xFF, 0xE0, 0, 0] = .ok (.hdrRejectLayerReserved 0 (hf 0 0 0 0 0 0 0 0 0 0)) ∧
    Sys2Proof.decode .mpegHdr32 [0xFF, 0xFF, 0xFF, 0xFF] =
      .ok (.hdrRejectBitrateIndex15 3 3 (hf 1 15 3 1 1 3 3 1 1 3)) := ⟨rfl, rfl, rfl⟩

theorem decodeWord_H0 : decodeWord 0xFFFB9000 = .ok H0 := rfl

/-- JointStereo, so that both clauses of the bound are met: the first here, the second by H0. -/
theorem witness_DecodedRecordFields :
    decodeWord 0xFFFB9000 = .ok H0 ∧ H0.channelMode ≠ 1 ∧
    decodeWord 0xFFFBA264 = .ok (assembleHeader 3 2 (hf 1 10 0 1 0 1 2 0 1 0)) ∧
    (assembleHeader 3 2 (hf 1 10 0 1 0 1 2 0 1 0)).channelMode = 1 := ⟨rfl, by decide, rfl, by decide⟩

theorem witness_DecodeIgnoresSyncBits :
    (0x001B9000 : Word).extractLsb' 0 21 = (0xFFFB9000 : Word).extractLsb' 0 21 ∧ (0x001B9000 : Word) ≠ 0xFFFB9000 := by
  decide

/-- MPEG1 Layer2 and MPEG2 Layer2. -/
theorem witness_AllocationIndexOfLayer2 :
    decodeWord 0xFFFD4800 = .ok (assembleHeader 3 1 (hf 1 4 2 0 0 0 0 0 0 0)) ∧
    decodeWord 0xFFF5E0C0 = .ok (assembleHeader 2 1 (hf 1 14 0 0 0 3 0 0 0 0)) ∧
    (assembleHeader 3 1 (hf 1 4 2 0 0 0 0 0 0 0)).layer = 1 ∧ (assembleHeader 3 1 (hf 1 4 2 0 0 0 0 0 0 0)).version = 3 ∧
    (assembleHeader 2 1 (hf 1 14 0 0 0 3 0 0 0 0)).layer = 1 ∧
    (assembleHeader 2 1 (hf 1 14 0 0 0 3 0 0 0 0)).version ≠ 3 := ⟨rfl, rfl, by decide, by decide, by decide, by decide⟩

theorem witness_DecodeUnitWritesCandidate :
    decodeWord unitState.w = .ok H0 ∧ decodeWord State.reset.w = .error .invalidHeader := ⟨rfl, rfl⟩

theorem witness_FrameSizeOfDecodedHeader : decodeWord 0xFFFB9000 = .ok H0 := rfl

/-- Layer1, where the slot is 4. -/
theorem witness_FrameSizeIsSlotMultiple :
    decodeWord 0xFFFE1000 = .ok (assembleHeader 3 0 (hf 0 1 0 0 0 0 0 0 0 0)) ∧
    (assembleHeader 3 0 (hf 0 1 0 0 0 0 0 0 0 0)).layer = 0 := ⟨rfl, rfl⟩

theorem witness_FrameSizeRange :
    decodeWord 0xFFF31400 = .ok (assembleHeader 2 2 (hf 1 1 1 0 0 0 0 0 0 0)) ∧
    decodeWord 0xFFE5EA00 = .ok (assembleHeader 0 1 (hf 1 14 2 1 0 0 0 0 0 0)) := ⟨rfl, rfl⟩

theorem witness_FsizeUnitWritesFsize : validRecord unitState.hc = true ∧ validRecord State.reset.hc = false := by decide

theorem witness_MatchPredicate :
    decodeWord 0xFFFB9000 = .ok H0 ∧ decodeWord 0xFFFB9400 = .ok H48 := ⟨rfl, rfl⟩

/-- Three different records, all matching (V5 rows 4 and 8). -/
theorem witness_MatchIsEquivalence :
    validRecord H0 = true ∧ validRecord (assembleHeader 3 2 (hf 1 9 0 1 0 0 0 0 0 0)) = true ∧
    validRecord (assembleHeader 3 2 (hf 1 9 0 0 0 2 0 0 0 0)) = true ∧
    matchResult H0 (assembleHeader 3 2 (hf 1 9 0 1 0 0 0 0 0 0)) = true ∧
    matchResult (assembleHeader 3 2 (hf 1 9 0 1 0 0 0 0 0 0)) (assembleHeader 3 2 (hf 1 9 0 0 0 2 0 0 0 0)) = true ∧
    H0.sampleRateHz = (assembleHeader 3 2 (hf 1 9 0 1 0 0 0 0 0 0)).sampleRateHz := by decide

theorem witness_MatchUnitWritesNothing :
    validRecord unitState.hc = true ∧ validRecord unitState.hb = true ∧ unitState.hbValid = true := by decide

theorem witness_TagSizeBounds : (0x7F : Byte).toNat < 0x80 := by decide

/-- Nine bytes; no signature; a tag without and with a footer (V6 rows 9, 7, 1, 2). -/
theorem witness_SkipTagFromZero :
    (source 9 0 [0x49, 0x44, 0x33, 4, 0, 0, 0, 0, 2]).len < 10 ∧
    memRead (source 10 0 [0x69, 0x64, 0x33, 4, 0, 0, 0, 0, 2, 1]) 0 10 =
      .bytes [0x69, 0x64, 0x33, 4, 0, 0, 0, 0, 2, 1] ∧
    Sys2Proof.decode .id3v2Hdr80 [0x69, 0x64, 0x33, 4, 0, 0, 0, 0, 2, 1] = .error .noSignature ∧
    memRead (source 10 0 [0x49, 0x44, 0x33, 4, 0, 0, 0, 0, 2, 1]) 0 10 =
      .bytes [0x49, 0x44, 0x33, 4, 0, 0, 0, 0, 2, 1] ∧
    Sys2Proof.decode .id3v2Hdr80 [0x49, 0x44, 0x33, 4, 0, 0, 0, 0, 2, 1] =
      .ok (.id3v2TagNoFooter
        { verMajor := 4, verMinor := 0, flagsHigh := 0, flagsLow := 0, b6 := 0, b7 := 0, b8 := 2, b9 := 1 }) ∧
    memRead (source 10 0 [0x49, 0x44, 0x33, 4, 0, 0x10, 0, 0, 2, 1]) 0 10 =
      .bytes [0x49, 0x44, 0x33, 4, 0, 0x10, 0, 0, 2, 1] ∧
    Sys2Proof.decode .id3v2Hdr80 [0x49, 0x44, 0x33, 4, 0, 0x10, 0, 0, 2, 1] =
      .ok (.id3v2TagFooter
        { verMajor := 4, verMinor := 0, flagsHigh := 0, flagsLow := 0, b6 := 0, b7 := 0, b8 := 2, b9 := 1 }) :=
  ⟨by decide, by decide, rfl, by decide, rfl, by decide, rfl⟩

/-- Short, no signature, and from offset 7 a tag with a footer. -/
theorem witness_SkiptagUnitWritesCursor :
    memRead State.reset.src State.reset.pc.toNat 10 = .short ∧
    memRead unitState.src unitState.pc.toNat 10 = .bytes [0xFF, 0xFB, 0x90, 0, 0, 0, 0, 0, 0, 0] ∧
    memRead (source 30 7 [0x49, 0x44, 0x33, 4, 0, 0x10, 0, 0, 2, 1]) 7 10 =
      .bytes [0x49, 0x44, 0x33, 4, 0, 0x10, 0, 0, 2, 1] := by decide

theorem witness_TagRowsEnterForwardScan :
    ({ State.reset with phase := .tag } : State).phase = .tag ∧ State.reset.phase ≠ .tag := by decide

/-- Four bytes at the very end, and one byte too far. -/
theorem witness_MemReadAllOrNothing : 830 + 4 ≤ twoFrames.len ∧ twoFrames.len < 831 + 4 := by decide

theorem witness_SourceNeverWritten :
    exec .fsize unitState =
      .next { unitState with fsize := 417, unitResult := some (.size 417), lastFailure := none } ∧
    step State.reset = .next State.reset := ⟨rfl, rfl⟩

theorem witness_EqualSourcesAreEqualData :
    twoFrames.wf = true ∧ (twoFrames.setByte 417 0xFF).wf = true ∧ twoFrames.len = (twoFrames.setByte 417 0xFF).len ∧
    ∀ a, a < twoFrames.len → twoFrames.readByte a = (twoFrames.setByte 417 0xFF).readByte a :=
  ⟨by decide, by decide, by decide, fun a _ => congrArg (Memory.readByte · a) (by decide)⟩

/-- A header at the last offset of a forward scan from 0 (V7b, `ZERO(16383) F0`). -/
def lastChance : Memory := source 16800 16383 [0xFF, 0xFB, 0x90, 0]

theorem headerAt_twoFrames : HeaderAt twoFrames 0 H0 :=
  ⟨0xFF, 0xFB, 0x90, 0, ⟨by decide, by decide⟩, by decide, rfl⟩

theorem headerAt_lastChance : HeaderAt lastChance ((0 : Int) + (16383 : Nat)) H0 :=
  ⟨0xFF, 0xFB, 0x90, 0, ⟨by decide, by decide⟩, by decide, rfl⟩

theorem lastChance_cells : lastChance.cells = [(16383, 0xFF), (16384, 0xFB), (16385, 0x90)] := by decide

theorem noHeader_lastChance (j : Nat) (hj : j < 16383) : NoHeaderAt lastChance ((0 : Int) + j) := by
  apply noHeader_of_byte
  rw [show ((0 : Int) + j).toNat = j by omega]
  simp only [Memory.byteAt, lastChance_cells, lookupCell]
  rw [if_neg (by omega), if_neg (by omega), if_neg (by omega)]
  decide

theorem noHeader_empty (c : Int) : NoHeaderAt State.reset.src c := by
  apply noHeader_of_byte
  simp only [Memory.byteAt, State.reset, lookupCell]
  decide

theorem noHeader_zeros (len : Nat) (c : Int) : NoHeaderAt { len := len, cells := [] } c := by
  apply noHeader_of_byte
  simp only [Memory.byteAt, lookupCell]
  decide

theorem witness_ForwardScanTakesFirstHeader :
    (16383 < 16384 ∧ HeaderAt lastChance ((0 : Int) + (16383 : Nat)) H0 ∧
      ∀ j : Nat, j < 16383 → NoHeaderAt lastChance ((0 : Int) + j)) ∧
    (∀ k : Nat, k < 16384 → NoHeaderAt { len := 16388, cells := [] } ((0 : Int) + k)) :=
  ⟨⟨by decide, headerAt_lastChance, noHeader_lastChance⟩, fun _ _ => noHeader_zeros _ _⟩

/-- A header three bytes early, at the seventh offset (V7c, `d = -3`). -/
def threeEarly : Memory := source 831 414 [0xFF, 0xFB, 0x90, 0]

theorem headerAt_threeEarly : HeaderAt threeEarly (417 + probePosition .cumulative 0 6) H0 :=
  ⟨0xFF, 0xFB, 0x90, 0, ⟨by decide, by decide⟩, by decide, rfl⟩

theorem noHeader_threeEarly (j : Nat) (hj : j < 6) : NoHeaderAt threeEarly (417 + probePosition .cumulative 0 j) := by
  apply noHeader_of_byte
  match j, hj with
  | 0, _ => decide
  | 1, _ => decide
  | 2, _ => decide
  | 3, _ => decide
  | 4, _ => decide
  | 5, _ => decide

theorem witness_ExactScanTakesFirstHeader :
    Params.default.eosPolicy = .failedAttempt ∧
    (6 < 7 ∧ HeaderAt threeEarly (417 + probePosition Params.default.probeMode 0 6) H0 ∧
      ∀ j : Nat, j < 6 → NoHeaderAt threeEarly (417 + probePosition Params.default.probeMode 0 j)) ∧
    (∀ k : Nat, k < 7 → NoHeaderAt { len := 900, cells := [] } (417 + probePosition Params.default.probeMode 0 k)) :=
  ⟨rfl, ⟨by decide, headerAt_threeEarly, noHeader_threeEarly⟩, fun _ _ => noHeader_zeros _ _⟩

/-- `stop_at_once`: the first read is Short; a header at the seventh offset with no Short read before it; none at all. -/
theorem witness_StopAtOnceEndsExactScan :
    (ShortAt { len := 417, cells := [] } (417 + probePosition .cumulative 0 0) ∧
      ∀ j : Nat, j < 0 → NoHeaderAt { len := 417, cells := [] } (417 + probePosition .cumulative 0 j)) ∧
    (HeaderAt threeEarly (417 + probePosition .cumulative 0 6) H0 ∧
      ∀ j : Nat, j < 6 → NoHeaderAt threeEarly (417 + probePosition .cumulative 0 j) ∧
        ¬ ShortAt threeEarly (417 + probePosition .cumulative 0 j)) ∧
    (∀ k : Nat, k < 7 → NoHeaderAt { len := 417, cells := [] } (417 + probePosition .cumulative 0 k)) := by
  refine ⟨⟨⟨by decide, by decide⟩, fun j hj => absurd hj (Nat.not_lt_zero j)⟩,
    ⟨headerAt_threeEarly, fun j hj => ⟨noHeader_threeEarly j hj, ?_⟩⟩, fun _ _ => noHeader_zeros _ _⟩
  rintro ⟨_, h⟩
  match j, hj with
  | 0, _ => exact absurd h (by decide)
  | 1, _ => exact absurd h (by decide)
  | 2, _ => exact absurd h (by decide)
  | 3, _ => exact absurd h (by decide)
  | 4, _ => exact absurd h (by decide)
  | 5, _ => exact absurd h (by decide)

/-- Found with a matching baseline, exhausted, and a mismatch. -/
theorem witness_ScanResultMeaning :
    findFrame Params.default twoFrames 417 true (some H0) = .ok (H0, 417) ∧ validRecord H0 = true ∧
    findFrame Params.default State.reset.src 417 true none = .error .scanExhausted ∧
    findFrame Params.default twoFrames 417 true (some H48) = .error .chainMismatch := by decide

/-- An empty source exhausts a forward scan. -/
theorem findFrame_empty : findFrame Params.default State.reset.src 0 false none = .error .scanExhausted := by
  obtain ⟨f, -, h⟩ := findFrame_fuel Params.default State.reset.src 0 false none
  rw [h]
  exact scanLoop_forward_none f _ (by decide) fun j _ => noHeader_of_short (if_neg (by simp [State.reset]))

/-- Exhausted by a forward scan; a mismatch; found by a forward scan with a baseline; exhausted by an exact-offset scan. -/
theorem witness_FindframeUnitCompletes :
    findFrame State.reset.params State.reset.src State.reset.pc.toNat State.reset.exact
      (if State.reset.hbValid then some State.reset.hb else none) = .error .scanExhausted ∧
    findFrame (inScan2 (source 900 417 [0xFF, 0xFB, 0x94, 0])).params (inScan2 (source 900 417 [0xFF, 0xFB, 0x94, 0])).src
      (inScan2 (source 900 417 [0xFF, 0xFB, 0x94, 0])).pc.toNat (inScan2 (source 900 417 [0xFF, 0xFB, 0x94, 0])).exact
      (some H0) = .error .chainMismatch ∧
    findFrame unitState.params unitState.src unitState.pc.toNat unitState.exact
      (if unitState.hbValid then some unitState.hb else none) = .ok (H0, 0) ∧
    unitState.exact = false ∧
    findFrame State.reset.params State.reset.src State.reset.pc.toNat true
      (if State.reset.hbValid then some State.reset.hb else none) = .error .scanExhausted :=
  ⟨findFrame_empty, by decide, by decide, rfl, by decide⟩

/-- Found by an exact-offset scan at its last offset, O - 3. -/
theorem witness_FindframeUnitCompletes_exact :
    (inScan2 (source 900 414 [0xFF, 0xFB, 0x90, 0])).exact = true ∧
    findFrame (inScan2 (source 900 414 [0xFF, 0xFB, 0x90, 0])).params (inScan2 (source 900 414 [0xFF, 0xFB, 0x90, 0])).src
      (inScan2 (source 900 414 [0xFF, 0xFB, 0x90, 0])).pc.toNat (inScan2 (source 900 414 [0xFF, 0xFB, 0x90, 0])).exact
      (some (inScan2 (source 900 414 [0xFF, 0xFB, 0x90, 0])).hb) = .ok (H0, 414) := by decide

/-- A failed lookup, a leaf, and a chain step. -/
theorem witness_VerifyUnitCompletes :
    findFrame (inScan2 State.reset.src).params (inScan2 State.reset.src).src (inScan2 State.reset.src).pc.toNat
      (inScan2 State.reset.src).exact (some (inScan2 State.reset.src).hb) = .error .scanExhausted ∧
    (findFrame unitState.params unitState.src unitState.pc.toNat unitState.exact (some unitState.hb) = .ok (H0, 0) ∧
      unitState.findsub = false) ∧
    ({ unitState with findsub := true } : State).findsub = true := by decide

theorem witness_DetectVerdictIff : unitState.phase = .idle := rfl

/-- A start in the tag phase, over a source that answers. -/
theorem witness_StartIgnoredWhileBusy :
    ({ started twoFrames with phase := .tag, busy := true } : State).phase ≠ .idle ∧
    (after (step { started twoFrames with phase := .tag, busy := true })).map (fun t => (t.phase, t.start)) =
      some (.scan1, false) := by decide

/-- Two states that differ in what an earlier detection left. -/
theorem witness_DetectForgetsThePast :
    unitState.phase = .idle ∧ ({ State.reset with src := twoFrames } : State).phase = .idle ∧
    unitState.src = ({ State.reset with src := twoFrames } : State).src ∧
    unitState.params = ({ State.reset with src := twoFrames } : State).params := by decide

/-- Program P1: two frames back to back. -/
theorem witness_AdjacentFramesAccepted :
    0 < 16384 ∧ HeaderAt twoFrames (skipTag twoFrames 0 + (0 : Nat)) H0 ∧
    (∀ j : Nat, j < 0 → NoHeaderAt twoFrames (skipTag twoFrames 0 + j)) ∧
    HeaderAt twoFrames (skipTag twoFrames 0 + (0 : Nat) + frameSizeFormula H0) H0 ∧ headersMatch H0 H0 = true :=
  ⟨by decide, ⟨0xFF, 0xFB, 0x90, 0, ⟨by decide, by decide⟩, by decide, rfl⟩,
    fun j hj => absurd hj (Nat.not_lt_zero j), ⟨0xFF, 0xFB, 0x90, 0, ⟨by decide, by decide⟩, by decide, rfl⟩, by decide⟩

/-- `F0` alone: a single frame (program P5). -/
def oneFrame : Memory := source 417 0 [0xFF, 0xFB, 0x90, 0]

/-- `F0` then a header that does not match (program P6). -/
def mismatched : Memory := { twoFrames with cells := [(0, 0xFF), (1, 0xFB), (2, 0x90), (417, 0xFF), (418, 0xFB), (419, 0x94)] }

/-- Zeros; no header in the range; a mismatch; a single frame. -/
theorem witness_SourcesRejected :
    ({ len := 20000, cells := [] } : Memory).cells = [] ∧
    (∀ k : Nat, k < 16384 → NoHeaderAt State.reset.src (skipTag State.reset.src 0 + k)) ∧
    (HeaderAt mismatched (skipTag mismatched 0 + (0 : Nat)) H0 ∧
      HeaderAt mismatched (skipTag mismatched 0 + (0 : Nat) + frameSizeFormula H0) H48 ∧ headersMatch H48 H0 = false) ∧
    (HeaderAt oneFrame (skipTag oneFrame 0 + (0 : Nat)) H0 ∧
      ∀ j : Nat, j < 7 →
        NoHeaderAt oneFrame
          (skipTag oneFrame 0 + (0 : Nat) + frameSizeFormula H0 + probePosition Params.default.probeMode 0 j)) := by
  refine ⟨rfl, fun _ _ => noHeader_empty _, ⟨⟨0xFF, 0xFB, 0x90, 0, ⟨by decide, by decide⟩, by decide, rfl⟩,
    ⟨0xFF, 0xFB, 0x94, 0, ⟨by decide, by decide⟩, by decide, rfl⟩, by decide⟩,
    ⟨0xFF, 0xFB, 0x90, 0, ⟨by decide, by decide⟩, by decide, rfl⟩, fun j hj => ?_⟩
  apply noHeader_of_byte
  match j, hj with
  | 0, _ => decide
  | 1, _ => decide
  | 2, _ => decide
  | 3, _ => decide
  | 4, _ => decide
  | 5, _ => decide
  | 6, _ => decide

theorem steady_started (src : Memory) : Steady (started src) := ⟨rfl, rfl⟩

theorem steady_inScan1 (src : Memory) : Steady (inScan1 src) := ⟨rfl, rfl⟩

theorem steady_inScan2 (src : Memory) : Steady (inScan2 src) := ⟨rfl, rfl⟩

theorem witness_SequencerAgreesWithDetect :
    Steady (started twoFrames) ∧ (started twoFrames).phase = .idle ∧ (started twoFrames).start = true :=
  ⟨steady_started _, rfl, rfl⟩

theorem witness_DetectionWorkBound :
    Steady (started lastChance) ∧ (started lastChance).phase = .idle ∧ (started lastChance).start = true :=
  ⟨steady_started _, rfl, rfl⟩

theorem witness_IdleHoldsOrStarts :
    (State.reset.rst = false ∧ State.reset.phase = .idle ∧ State.reset.start = false ∧ State.reset.unitReq = none) ∧
    ((started twoFrames).rst = false ∧ (started twoFrames).phase = .idle ∧ (started twoFrames).start = true) := by decide

theorem witness_TagStepProbesOffsetZero :
    Steady { started twoFrames with phase := .tag } ∧ ({ started twoFrames with phase := .tag } : State).phase = .tag :=
  ⟨⟨rfl, rfl⟩, rfl⟩

/-- The last attempt but one, and the last. -/
theorem witness_ForwardScanStepMisses :
    (Steady { inScan1 lastChance with n := 16382 } ∧
      NoHeaderAt lastChance (({ inScan1 lastChance with n := 16382 } : State).pc.toNat : Int) ∧
      ({ inScan1 lastChance with n := 16382 } : State).n.toNat + 1 < 16384) ∧
    (Steady { inScan1 lastChance with n := 16383 } ∧
      NoHeaderAt lastChance (({ inScan1 lastChance with n := 16383 } : State).pc.toNat : Int) ∧
      16384 ≤ ({ inScan1 lastChance with n := 16383 } : State).n.toNat + 1) :=
  ⟨⟨⟨rfl, rfl⟩, noHeader_of_byte (by decide), by decide⟩, ⟨⟨rfl, rfl⟩, noHeader_of_byte (by decide), by decide⟩⟩

theorem witness_ForwardScanStepHits :
    Steady (inScan1 twoFrames) ∧ (inScan1 twoFrames).phase = .scan1 ∧
    BytesAt twoFrames ((inScan1 twoFrames).pc.toNat : Int) 0xFF 0xFB 0x90 0 ∧ isCandidate 0xFF 0xFB 0x90 = true ∧
    decodeWord (wordOfBytes 0xFF 0xFB 0x90 0) = .ok H0 :=
  ⟨steady_inScan1 _, rfl, ⟨by decide, by decide⟩, by decide, rfl⟩

/-- `step = 7`; a Short read under `stop_at_once`; `step = 6`, and a Short read under `failed_attempt`. -/
theorem witness_ExactScanStepMisses :
    (Steady { inScan2 oneFrame with stepReg := 7 } ∧ NoHeaderAt oneFrame ((inScan2 oneFrame).pc.toNat : Int) ∧
      6 < ({ inScan2 oneFrame with stepReg := 7 } : State).stepReg.toNat) ∧
    memRead oneFrame (inScan2 oneFrame).pc.toNat 4 = .short ∧
    (({ inScan2 oneFrame with stepReg := 6 } : State).stepReg.toNat ≤ 6 ∧
      ¬ (({ inScan2 oneFrame with stepReg := 6 } : State).params.eosPolicy = .stopAtOnce ∧
        memRead oneFrame (inScan2 oneFrame).pc.toNat 4 = .short)) :=
  ⟨⟨⟨rfl, rfl⟩, noHeader_of_byte (by decide), by decide⟩, by decide, by decide⟩

theorem witness_ExactScanStepHits :
    (Steady (inScan2 twoFrames) ∧ (inScan2 twoFrames).phase = .scan2 ∧ validRecord (inScan2 twoFrames).hb = true ∧
      BytesAt twoFrames ((inScan2 twoFrames).pc.toNat : Int) 0xFF 0xFB 0x90 0 ∧ isCandidate 0xFF 0xFB 0x90 = true ∧
      decodeWord (wordOfBytes 0xFF 0xFB 0x90 0) = .ok H0 ∧ headersMatch H0 (inScan2 twoFrames).hb = true) ∧
    (BytesAt mismatched ((inScan2 mismatched).pc.toNat : Int) 0xFF 0xFB 0x94 0 ∧ isCandidate 0xFF 0xFB 0x94 = true ∧
      decodeWord (wordOfBytes 0xFF 0xFB 0x94 0) = .ok H48 ∧ headersMatch H48 (inScan2 mismatched).hb = false) :=
  ⟨⟨steady_inScan2 _, rfl, by decide, ⟨by decide, by decide⟩, by decide, rfl, by decide⟩,
    ⟨⟨by decide, by decide⟩, by decide, rfl, by decide⟩⟩

/-- A step from each phase. -/
theorem witness_LegalPhaseTransitions :
    (after (step (started twoFrames))).map (·.phase) = some .tag ∧
    (after (step { started twoFrames with phase := .tag })).map (·.phase) = some .scan1 ∧
    (after (step (inScan1 twoFrames))).map (·.phase) = some .scan2 ∧
    (after (step (inScan2 twoFrames))).map (·.phase) = some .idle ∧
    (after (step { started twoFrames with phase := .tag, srcAnswers := false })).map (·.phase) = some .tag := by decide

/-- A reset in the middle of a detection. -/
theorem witness_ResetStep : ({ inScan2 twoFrames with rst := true } : State).rst = true := rfl

theorem witness_WaitsForTheSource :
    ({ inScan1 twoFrames with srcAnswers := false } : State).rst = false ∧
    ({ inScan1 twoFrames with srcAnswers := false } : State).srcAnswers = false ∧
    ({ inScan1 twoFrames with srcAnswers := false } : State).phase ≠ .idle := by decide

theorem witness_ValidRowsStartTheChain :
    (Instr.hdrMpeg1L3 (hf 1 9 0 0 0 0 0 0 0 0)).wellFormed = true ∧
    rowRecord (.hdrMpeg1L3 (hf 1 9 0 0 0 0 0 0 0 0)) = some H0 ∧ (inScan1 twoFrames).phase = .scan1 := by decide

theorem witness_ValidRowsDecideTheVerdict :
    (inScan2 twoFrames).phase = .scan2 ∧ validRecord (inScan2 twoFrames).hb = true ∧
    rowRecord (.hdrMpeg1L3 (hf 1 9 0 0 0 0 0 0 0 0)) = some H0 ∧ headersMatch H0 (inScan2 twoFrames).hb = true ∧
    (Instr.hdrMpeg1L3 (hf 1 9 1 0 0 0 0 0 0 0)).wellFormed = true ∧
    rowRecord (.hdrMpeg1L3 (hf 1 9 1 0 0 0 0 0 0 0)) = some H48 ∧ headersMatch H48 (inScan2 twoFrames).hb = false := by
  decide

/-- The four clauses at their boundary. -/
theorem witness_RejectRowsFailTheAttempt :
    rejectKind (.hdrRejectBitrateIndex15 3 1 (hf 1 15 0 0 0 0 0 0 0 0)) = some none ∧
    rejectKind (.hdrRejectM1l2Bi14Mono (hf 1 14 0 0 0 3 0 0 0 0)) = some (some .invalidHeader) ∧
    ({ inScan1 twoFrames with n := 16382 } : State).n.toNat + 1 < 16384 ∧
    16384 ≤ ({ inScan1 twoFrames with n := 16383 } : State).n.toNat + 1 ∧
    ({ inScan2 twoFrames with stepReg := 6 } : State).stepReg.toNat ≤ 6 ∧
    6 < ({ inScan2 twoFrames with stepReg := 7 } : State).stepReg.toNat := by decide

theorem witness_HeaderRowsOutsideAScan :
    State.reset.phase = .idle ∧ ({ State.reset with phase := .tag } : State).phase = .tag ∧
    rowRecord (.hdrMpeg1L3 (hf 1 9 0 0 0 0 0 0 0 0)) = some H0 ∧
    rejectKind (.hdrRejectVersionReserved 1 (hf 1 9 0 0 0 0 0 0 0 0)) = some (some .invalidHeader) := by decide

theorem witness_StepRunsTheDecodedRow :
    (Steady (inScan1 twoFrames) ∧
      memRead (inScan1 twoFrames).src (inScan1 twoFrames).pc.toNat 4 = .bytes [0xFF, 0xFB, 0x90, 0] ∧
      Sys2Proof.decode .mpegHdr32 [0xFF, 0xFB, 0x90, 0] = .ok (.hdrMpeg1L3 (hf 1 9 0 0 0 0 0 0 0 0))) ∧
    (memRead (source 10 0 [0x49, 0x44, 0x33, 3, 0, 0, 0, 0, 0, 0]) 0 10 =
        .bytes [0x49, 0x44, 0x33, 3, 0, 0, 0, 0, 0, 0] ∧
      Sys2Proof.decode .id3v2Hdr80 [0x49, 0x44, 0x33, 3, 0, 0, 0, 0, 0, 0] =
        .ok (.id3v2TagNoFooter
          { verMajor := 3, verMinor := 0, flagsHigh := 0, flagsLow := 0, b6 := 0, b7 := 0, b8 := 0, b9 := 0 })) ∧
    (({ State.reset with unitReq := some 6 } : State).phase = .idle ∧
      Sys2Proof.decode .unitOp [6] = .ok .matchHeaders) :=
  ⟨⟨steady_inScan1 _, by decide, rfl⟩, ⟨by decide, rfl⟩, rfl, rfl⟩

/-- A state of each scan phase that meets the invariant, with its next state. -/
theorem witness_StepKeepsPhaseInvariant :
    Inv (inScan1 twoFrames) ∧ (after (step (inScan1 twoFrames))).isSome = true ∧
    Inv (inScan2 twoFrames) ∧ (after (step (inScan2 twoFrames))).isSome = true := by
  refine ⟨⟨by decide, ?_⟩, by decide, ⟨by decide, ?_⟩, by decide⟩
  · simp only [PhaseInv, inScan1]
    decide
  · simp only [PhaseInv, inScan2]
    decide

theorem witness_CursorStaysInRange :
    Inv (inScan1 twoFrames) ∧ (inScan1 twoFrames).phase = .scan1 ∧ Inv (inScan2 twoFrames) ∧
    (inScan2 twoFrames).phase = .scan2 ∧ (inScan2 twoFrames).params.probeMode = .cumulative :=
  ⟨witness_StepKeepsPhaseInvariant.1, rfl, witness_StepKeepsPhaseInvariant.2.2.1, rfl, rfl⟩

end Sys2Proof.Tests
end

section
/-! Where the fields of a header word stand in its four bytes (R71): a field inside one byte is that byte's field, and the
sync field, the one field that crosses a byte boundary, is byte 0 followed by the top of byte 1. -/

namespace Sys2Proof

section ByteFields
variable (b0 b1 b2 b3 : Byte) {lo len : Nat}

theorem extract_wordOfBytes_byte3 (h : lo + len ≤ 8) :
    (wordOfBytes b0 b1 b2 b3).extractLsb' lo len = b3.extractLsb' lo len :=
  BitVec.extractLsb'_append_eq_of_add_le h

theorem extract_wordOfBytes_byte2 (h : lo + len ≤ 8) :
    (wordOfBytes b0 b1 b2 b3).extractLsb' (lo + 8) len = b2.extractLsb' lo len :=
  (BitVec.extractLsb'_append_eq_of_le (Nat.le_add_left 8 lo)).trans (BitVec.extractLsb'_append_eq_of_add_le h)

/-- Bytes 0 and 1 are the upper half of the word. -/
theorem extract_wordOfBytes_upper :
    (wordOfBytes b0 b1 b2 b3).extractLsb' (lo + 16) len = (b0 ++ b1).extractLsb' lo len :=
  (BitVec.extractLsb'_append_eq_of_le (by omega)).trans (BitVec.extractLsb'_append_eq_of_le (Nat.le_add_left 8 lo))

theorem extract_wordOfBytes_byte1 (h : lo + len ≤ 8) :
    (wordOfBytes b0 b1 b2 b3).extractLsb' (lo + 16) len = b1.extractLsb' lo len :=
  (extract_wordOfBytes_upper b0 b1 b2 b3).trans (BitVec.extractLsb'_append_eq_of_add_le h)

theorem versionField_wordOfBytes : versionField (wordOfBytes b0 b1 b2 b3) = b1.extractLsb' 3 2 :=
  extract_wordOfBytes_byte1 b0 b1 b2 b3 (by decide)

theorem layerField_wordOfBytes : layerField (wordOfBytes b0 b1 b2 b3) = b1.extractLsb' 1 2 :=
  extract_wordOfBytes_byte1 b0 b1 b2 b3 (by decide)

theorem fieldsOfWord_wordOfBytes :
    fieldsOfWord (wordOfBytes b0 b1 b2 b3) =
      { prot := b1.extractLsb' 0 1
        bitrate := b2.extractLsb' 4 4
        srate := b2.extractLsb' 2 2
        pad := b2.extractLsb' 1 1
        priv := b2.extractLsb' 0 1
        cmode := b3.extractLsb' 6 2
        mext := b3.extractLsb' 4 2
        copy := b3.extractLsb' 3 1
        orig := b3.extractLsb' 2 1
        emph := b3.extractLsb' 0 2 } := by
  have byte1 {lo len} := @extract_wordOfBytes_byte1 b0 b1 b2 b3 lo len
  have byte2 {lo len} := @extract_wordOfBytes_byte2 b0 b1 b2 b3 lo len
  have byte3 {lo len} := @extract_wordOfBytes_byte3 b0 b1 b2 b3 lo len
  rw [fieldsOfWord, HdrFields.mk.injEq]
  exact ⟨byte1 (by decide), byte2 (by decide), byte2 (by decide), byte2 (by decide), byte2 (by decide),
    byte3 (by decide), byte3 (by decide), byte3 (by decide), byte3 (by decide), byte3 (by decide)⟩

/-- The sync field runs over the byte boundary: byte 0, then the top three bits of byte 1. -/
theorem syncField_wordOfBytes : syncField (wordOfBytes b0 b1 b2 b3) = b0 ++ b1.extractLsb' 5 3 := by
  have upper : syncField (wordOfBytes b0 b1 b2 b3) = (b0 ++ b1).extractLsb' 5 11 :=
    extract_wordOfBytes_upper b0 b1 b2 b3
  have split : (b0 ++ b1).extractLsb' 8 8 ++ (b0 ++ b1).extractLsb' 5 3 = (b0 ++ b1).extractLsb' 5 11 :=
    BitVec.extractLsb'_append_extractLsb'_eq_extractLsb' rfl
  rw [upper, ← split, BitVec.extractLsb'_append_eq_left, BitVec.extractLsb'_append_eq_of_add_le (by decide)]

end ByteFields

/-- Lets a field that spans two bytes be compared byte by byte. -/
theorem append_eq_append_iff {m n : Nat} {x x' : BitVec m} {y y' : BitVec n} :
    x ++ y = x' ++ y' ↔ x = x' ∧ y = y' := by
  constructor
  · intro h
    have hi := congrArg (·.extractLsb' n m) h
    have lo := congrArg (·.extractLsb' 0 n) h
    simp only [BitVec.extractLsb'_append_eq_left, BitVec.extractLsb'_append_eq_right] at hi lo
    exact ⟨hi, lo⟩
  · rintro ⟨rfl, rfl⟩
    rfl

theorem syncField_wordOfBytes_eq_ones (b0 b1 b2 b3 : Byte) :
    syncField (wordOfBytes b0 b1 b2 b3) = 0x7FF ↔ b0 = 0xFF ∧ b1.extractLsb' 5 3 = 7 := by
  rw [syncField_wordOfBytes, show (0x7FF : BitVec 11) = (0xFF : BitVec 8) ++ (7 : BitVec 3) from rfl]
  exact append_eq_append_iff

/-- Settles O4: the number of the word is the big-endian sum, and each field is read off the byte that holds it. -/
theorem fieldsStandInTheirBytes : Obligations.FieldsStandInTheirBytes := fun b0 b1 b2 b3 =>
  ⟨wordOfBytes_toNat b0 b1 b2 b3, syncField_wordOfBytes_eq_ones b0 b1 b2 b3, versionField_wordOfBytes b0 b1 b2 b3,
    layerField_wordOfBytes b0 b1 b2 b3, fieldsOfWord_wordOfBytes b0 b1 b2 b3⟩

end Sys2Proof
end

section
/-! A valid record is the assembled record of the fields it holds (R26, R83), so DECODE gives it back, and its frame size is
in the range of R134. -/

namespace Sys2Proof.Machine

/-- The word of fields that meet R113's conditions decodes to their record. -/
theorem decodeWord_wordOfFields {v lr : BitVec 2} {f : HdrFields} (hf : fieldsOk v (layerIndex lr) f) :
    decodeWord (wordOfFields v lr f) = .ok (assembleHeader v (layerIndex lr) f) := by
  have he := decodeWord_eq (wordOfFields v lr f)
  simp only [versionField_wordOfFields, layerField_wordOfFields, fieldsOfWord_wordOfFields] at he
  exact (he.resolve_right fun h => h.1 hf).2

theorem layerIndex_involutive (li : BitVec 2) : layerIndex (layerIndex li) = li := by
  revert li
  decide

theorem sampleRateRow_index {v : BitVec 2} {r : Nat} (hr : r ∈ sampleRateRow v) :
    ∃ si : BitVec 2, si ≠ 3 ∧ sampleRateTable v si = r := by
  revert v r
  decide

/-- The word fields that a record holds, with the sample-rate index `si`, which it holds only as a rate. -/
def recordFields (h : HeaderRec) (si : BitVec 2) : HdrFields where
  prot := BitVec.ofBool (!h.hasCRC)
  bitrate := h.bitrateIndex
  srate := si
  pad := h.paddingSize
  priv := BitVec.ofBool h.privateBit
  cmode := h.channelMode
  mext := h.modeExtension
  copy := BitVec.ofBool h.copyright
  orig := BitVec.ofBool h.original
  emph := h.emphasis

theorem ofBool_beq_one (b : Bool) : (BitVec.ofBool b == 1) = b := by cases b <;> rfl

theorem ofBool_not_beq_zero (b : Bool) : (BitVec.ofBool (!b) == 0) = b := by cases b <;> rfl

/-- A valid record is the assembled record of its own fields. -/
theorem validRecord_assembled {h : HeaderRec} (hv : validRecord h = true) :
    ∃ f, fieldsOk h.version h.layer f ∧ h = assembleHeader h.version h.layer f := by
  simp only [validRecord, Bool.and_eq_true, bne_iff_ne, beq_iff_eq, List.any_eq_true, ne_eq, Bool.or_eq_true,
    Bool.not_eq_true', Bool.and_eq_false_iff, beq_eq_false_iff_ne] at hv
  obtain ⟨⟨⟨⟨⟨⟨⟨⟨⟨⟨⟨version, layer⟩, index0⟩, index15⟩, emphasis⟩, lsf⟩, bps⟩, r, hr, rate⟩, samples⟩, allowed⟩,
    alloc⟩, bound⟩ := hv
  obtain ⟨si, hsi, rfl⟩ := sampleRateRow_index hr
  refine ⟨recordFields h si, ⟨version, layer, index15, index0, hsi, emphasis, fun hl hm => ?_⟩, ?_⟩
  · exact allowed.resolve_left (by rintro (other | other) <;> contradiction)
  · rw [bps, rate, BitVec.toNat_ofNat, BitVec.toNat_ofNat, Nat.mod_eq_of_lt (bitrateBpsOf_lt ..),
      Nat.mod_eq_of_lt (sampleRate_lt ..)] at alloc
    rw [lsf] at samples
    cases h
    simp only [assembleHeader, recordFields, ofBool_beq_one, ofBool_not_beq_zero, HeaderRec.mk.injEq, true_and]
    exact ⟨lsf, bps, rate, samples, alloc, bound⟩

/-- Settles O10: the fields of a valid record are encoded in the word that decodes to it. -/
theorem validRecordIsDecoded : Obligations.ValidRecordIsDecoded := by
  intro h
  constructor
  · intro hv
    obtain ⟨f, hf, he⟩ := validRecord_assembled hv
    rw [← layerIndex_involutive h.layer] at hf he
    exact ⟨wordOfFields h.version (layerIndex h.layer) f, (decodeWord_wordOfFields hf).trans (congrArg _ he.symm)⟩
  · rintro ⟨w, hd⟩
    exact decodeWord_valid hd

/-- Over every cell of BITRATE and SAMPLERATE, without padding and with it. -/
theorem frameSize_tables {v li si : BitVec 2} {bi : BitVec 4} (hv : v ≠ 1) (hl : li ≠ 3) (h0 : bi ≠ 0) (h15 : bi ≠ 15)
    (hs : si ≠ 3) :
    24 ≤ coeffTable (lsfOf v) li * bitrateBpsOf v li bi / sampleRateTable v si * slotTable li ∧
    (coeffTable (lsfOf v) li * bitrateBpsOf v li bi / sampleRateTable v si + 1) * slotTable li ≤ 2881 := by
  revert v li bi si
  decide

theorem frameSizeFormula_assemble (v li : BitVec 2) (f : HdrFields) :
    frameSizeFormula (assembleHeader v li f) =
      (coeffTable (lsfOf v) li * bitrateBpsOf v li f.bitrate / sampleRateTable v f.srate + f.pad.toNat) *
        slotTable li := by
  rw [frameSizeFormula, assemble_bitrate, assemble_sampleRate]
  rfl

/-- The range of R134, on valid records. -/
theorem frameSizeFormula_bounds {h : HeaderRec} (hv : validRecord h = true) :
    24 ≤ frameSizeFormula h ∧ frameSizeFormula h ≤ 2881 := by
  obtain ⟨f, ⟨version, layer, index15, index0, rate, -, -⟩, he⟩ := validRecord_assembled hv
  obtain ⟨low, high⟩ := frameSize_tables version layer index0 index15 rate
  have padding : f.pad.toNat ≤ 1 := Nat.le_of_lt_succ f.pad.isLt
  rw [he, frameSizeFormula_assemble]
  exact ⟨low.trans (Nat.mul_le_mul_right _ (Nat.le_add_right _ _)),
    (Nat.mul_le_mul_right _ (Nat.add_le_add_left padding _)).trans high⟩

end Sys2Proof.Machine
end

section
/-! Everything a step of the block can do (R188, R239, R230), said once: one case for each row of the sequencer's table, with
its guard and its next state. -/

namespace Sys2Proof.Machine

/-! ### The tag probe -/

/-- The footer flag by its mask, as R145 writes it, and by its bit, as R80 does. -/
theorem footerFlag_eq (b5 : Byte) : footerFlag b5 = decide (b5 &&& 0x10 ≠ 0) := by
  revert b5
  decide

theorem syncsafe_lt (b6 b7 b8 b9 : Byte) : syncsafe b6 b7 b8 b9 < 2 ^ 29 := by
  have := b6.isLt
  have := b7.isLt
  have := b8.isLt
  have := b9.isLt
  simp only [syncsafe, Nat.shiftLeft_eq]
  refine Nat.or_lt_two_pow (Nat.or_lt_two_pow (Nat.or_lt_two_pow ?_ ?_) ?_) ?_ <;> omega

theorem tagRow_tag {s : State} (len : Nat) (hp : s.phase = .tag) : tagRow len s = tagSkipped len none s := by
  simp only [tagRow, hp]

theorem memRead_ten {m : Memory} {a : Nat} {bs : List Byte} (h : memRead m a 10 = .bytes bs) :
    ∃ t0 t1 t2 t3 t4 t5 t6 t7 t8 t9, bs = [t0, t1, t2, t3, t4, t5, t6, t7, t8, t9] := by
  match bs, memRead_bytes_length h with
  | [t0, t1, t2, t3, t4, t5, t6, t7, t8, t9], _ => exact ⟨t0, t1, t2, t3, t4, t5, t6, t7, t8, t9, rfl⟩

/-- The tag row with or without a footer. -/
def tagInstr (footer : Bool) (t : TagFields) : Instr := if footer then .id3v2TagFooter t else .id3v2TagNoFooter t

theorem exec_tagInstr (footer : Bool) (t : TagFields) (s : State) :
    exec (tagInstr footer t) s = .next (tagRow (tagFieldsLength footer t) s) := by
  cases footer <;> rfl

section TagBytes

/-- The fields of ten bytes that begin with the signature (R80). -/
def tagFieldsOf (t3 t4 t5 t6 t7 t8 t9 : Byte) : TagFields where
  verMajor := t3
  verMinor := t4
  flagsHigh := t5.extractLsb' 5 3
  flagsLow := t5.extractLsb' 0 4
  b6 := t6
  b7 := t7
  b8 := t8
  b9 := t9

variable {t0 t1 t2 t3 t4 t5 t6 t7 t8 t9 : Byte}

theorem decode_signed :
    decode .id3v2Hdr80 [0x49, 0x44, 0x33, t3, t4, t5, t6, t7, t8, t9] =
      .ok (tagInstr (footerFlag t5) (tagFieldsOf t3 t4 t5 t6 t7 t8 t9)) := by
  cases hf : footerFlag t5 <;> simp [decode, decodeTagBytes, tagSignature, tagInstr, tagFieldsOf, hf]

theorem decode_unsigned (hn : ¬ (t0 = 0x49 ∧ t1 = 0x44 ∧ t2 = 0x33)) :
    decode .id3v2Hdr80 [t0, t1, t2, t3, t4, t5, t6, t7, t8, t9] = .error .noSignature := by
  simp only [decode, decodeTagBytes, tagSignature, List.cons.injEq, and_true]
  exact if_neg hn

theorem skipTagResult_signed (off : Nat) :
    skipTagResult off (.bytes [0x49, 0x44, 0x33, t3, t4, t5, t6, t7, t8, t9]) =
      off + tagFieldsLength (footerFlag t5) (tagFieldsOf t3 t4 t5 t6 t7 t8 t9) := by
  simp [skipTagResult, tagFieldsLength, tagLength, tagFieldsOf, footerFlag_eq, Nat.add_assoc]

theorem skipTagResult_unsigned (off : Nat) (hn : ¬ (t0 = 0x49 ∧ t1 = 0x44 ∧ t2 = 0x33)) :
    skipTagResult off (.bytes [t0, t1, t2, t3, t4, t5, t6, t7, t8, t9]) = off :=
  if_neg hn

end TagBytes

/-- Row TAG, whatever the ten bytes decode to: the cursor goes where SKIPTAG(0) says (R145, R188). -/
theorem stepTag_eq {s : State} (hp : s.phase = .tag) :
    stepTag s =
      .next (tagSkipped (skipTag s.src 0) (probeFailure (memRead s.src 0 10))
        (latchTag 0 (memRead s.src 0 10) (consumeInputs s))) := by
  unfold stepTag skipTag
  cases hr : memRead s.src 0 10 with
  | short => rfl
  | bytes bs =>
    obtain ⟨t0, t1, t2, t3, t4, t5, t6, t7, t8, t9, rfl⟩ := memRead_ten hr
    by_cases signature : t0 = 0x49 ∧ t1 = 0x44 ∧ t2 = 0x33
    · obtain ⟨rfl, rfl, rfl⟩ := signature
      simp only [decode_signed, exec_tagInstr, skipTagResult_signed, Nat.zero_add]
      exact congrArg _ (tagRow_tag _ hp)
    · simp only [decode_unsigned signature, skipTagResult_unsigned 0 signature]

theorem tagFieldsLength_le (footer : Bool) (t : TagFields) : tagFieldsLength footer t ≤ maxTagOffset := by
  have := syncsafe_lt t.b6 t.b7 t.b8 t.b9
  cases footer <;>
    simp only [tagFieldsLength, tagLength, Config.tagHeaderLen, Config.tagFooterLen, maxTagOffset, if_true, if_false,
      Bool.false_eq_true] <;> omega

/-- The bound of R152. -/
theorem skipTag_le (src : Memory) : skipTag src 0 ≤ maxTagOffset := by
  unfold skipTag
  cases hr : memRead src 0 10 with
  | short => exact Nat.zero_le _
  | bytes bs =>
    obtain ⟨t0, t1, t2, t3, t4, t5, t6, t7, t8, t9, rfl⟩ := memRead_ten hr
    by_cases signature : t0 = 0x49 ∧ t1 = 0x44 ∧ t2 = 0x33
    · obtain ⟨rfl, rfl, rfl⟩ := signature
      rw [skipTagResult_signed, Nat.zero_add]
      exact tagFieldsLength_le ..
    · rw [skipTagResult_unsigned 0 signature]
      exact Nat.zero_le _

/-! ### The rows -/

theorem decode_unitOp_format {bs : List Byte} {i : Instr} (h : decode .unitOp bs = .ok i) : i.format = .unitOp := by
  simp only [decode, decodeUnitCode] at h
  split at h
  · split at h <;> cases h
    all_goals rfl
  · cases h

/-- The registers after a scan step's read at `pc`, before the row that its answer chooses. -/
def fetched (s : State) : State := latchWord (memRead s.src s.pc.toNat 4) (consumeInputs s)

/-- The steps from `s` that answer a next state: reset, waiting, and the rows of R188, each under its guard. -/
inductive StepRow (s : State) : State → Prop
  | reset (hr : s.rst = true) : StepRow s (applyReset s)
  | waits (hr : s.rst = false) (hp : s.phase ≠ .idle) (ha : s.srcAnswers = false) : StepRow s (waitForSource s)
  | start (hr : s.rst = false) (hp : s.phase = .idle) (hs : s.start = true) : StepRow s (startDetection (consumeInputs s))
  | hold (hr : s.rst = false) (hp : s.phase = .idle) (hs : s.start = false) (hu : s.unitReq = none) :
      StepRow s (consumeInputs s)
  | unit {t : State} {i : Instr} (hr : s.rst = false) (hp : s.phase = .idle) (hs : s.start = false)
      (hi : i.format = .unitOp) (he : exec i (consumeInputs s) = .next t) : StepRow s t
  | tag (hr : s.rst = false) (hp : s.phase = .tag) (ha : s.srcAnswers = true) :
      StepRow s (tagSkipped (skipTag s.src 0) (probeFailure (memRead s.src 0 10))
        (latchTag 0 (memRead s.src 0 10) (consumeInputs s)))
  | forwardMiss (k : Option FailureKind) (hr : s.rst = false) (hp : s.phase = .scan1) (ha : s.srcAnswers = true)
      (hn : NoHeaderAt s.src s.pc.toNat) : StepRow s (forwardMiss k (fetched s))
  | firstHit (h : HeaderRec) (hr : s.rst = false) (hp : s.phase = .scan1) (ha : s.srcAnswers = true)
      (hh : HeaderAt s.src s.pc.toNat h) : StepRow s (firstHit h (fetched s))
  | exactMiss (k : Option FailureKind) (hr : s.rst = false) (hp : s.phase = .scan2) (ha : s.srcAnswers = true)
      (hn : NoHeaderAt s.src s.pc.toNat) : StepRow s (exactMiss k (fetched s))
  | secondHit (h : HeaderRec) (hr : s.rst = false) (hp : s.phase = .scan2) (ha : s.srcAnswers = true)
      (hh : HeaderAt s.src s.pc.toNat h) : StepRow s (secondHit h (fetched s))

variable {s t : State}

theorem stepRow_of_stepIdle (hr : s.rst = false) (hp : s.phase = .idle) (h : stepIdle s = .next t) : StepRow s t := by
  unfold stepIdle at h
  split at h
  next hs =>
    cases h
    exact .start hr hp hs
  next hs =>
    have hs : s.start = false := Bool.eq_false_of_not_eq_true hs
    split at h
    next hu =>
      cases h
      exact .hold hr hp hs hu
    next =>
      split at h
      next hd => exact .unit hr hp hs (decode_unitOp_format hd) h
      next => cases h

/-- A scan step is a failed attempt where no header stands and a hit where one does. -/
theorem stepScan_cases (s : State) :
    (NoHeaderAt s.src s.pc.toNat ∧ ∃ k, stepScan s = .next (failedAttempt k (fetched s))) ∨
    ∃ h, HeaderAt s.src s.pc.toNat h ∧ stepScan s = .next (headerHit h (fetched s)) := by
  by_cases hh : ∃ h, HeaderAt s.src s.pc.toNat h
  · obtain ⟨h, b0, b1, b2, b3, hm, hc, hd⟩ := hh
    have read : memRead s.src s.pc.toNat 4 = .bytes [b0, b1, b2, b3] := hm.2
    refine .inr ⟨h, ⟨b0, b1, b2, b3, hm, hc, hd⟩, ?_⟩
    rw [stepScan_hit hm hc hd, fetched, read]
  · have hn : NoHeaderAt s.src s.pc.toNat := fun h hh' => hh ⟨h, hh'⟩
    obtain ⟨k, -, hk⟩ := stepScan_miss hn
    exact .inl ⟨hn, k, hk⟩

theorem stepRow_of_stepScan (hr : s.rst = false) (hp : s.phase = .scan1 ∨ s.phase = .scan2) (ha : s.srcAnswers = true)
    (h : stepScan s = .next t) : StepRow s t := by
  obtain ⟨hn, k, he⟩ | ⟨hd, hh, he⟩ := stepScan_cases s <;> rw [he] at h <;> cases h <;> obtain hp | hp := hp
  · exact failedAttempt_scan1 (s := fetched s) k hp ▸ .forwardMiss k hr hp ha hn
  · exact failedAttempt_scan2 (s := fetched s) k hp ▸ .exactMiss k hr hp ha hn
  · exact headerHit_scan1 (s := fetched s) hd hp ▸ .firstHit hd hr hp ha hh
  · exact headerHit_scan2 (s := fetched s) hd hp ▸ .secondHit hd hr hp ha hh

/-- Everything a step can do. -/
theorem stepRow_of_step (h : step s = .next t) : StepRow s t := by
  cases hr : s.rst with
  | true =>
    rw [step_of_rst hr] at h
    cases h
    exact .reset hr
  | false =>
    by_cases hp : s.phase = .idle
    · exact stepRow_of_stepIdle hr hp (step_idle hr hp ▸ h)
    cases ha : s.srcAnswers with
    | false =>
      rw [step_waits hr hp ha] at h
      cases h
      exact .waits hr hp ha
    | true =>
      by_cases ht : s.phase = .tag
      · rw [step_tag hr ht ha, stepTag_eq ht] at h
        cases h
        exact .tag hr ht ha
      · have scan : s.phase = .scan1 ∨ s.phase = .scan2 := by
          cases hs : s.phase <;> simp_all
        exact stepRow_of_stepScan hr scan ha (step_scan hr scan ha ▸ h)

end Sys2Proof.Machine
end

section
/-! The phases a step can lead to (R28), and the invariant that every step keeps (R240). -/

namespace Sys2Proof.Machine

/-! ### What a unit run alone leaves -/

/-- The source, the phase and the status outputs are those of `s`. -/
structure SameStatus (s t : State) : Prop where
  src : t.src = s.src
  phase : t.phase = s.phase
  busy : t.busy = s.busy
  done : t.done = s.done
  verdict : t.verdict = s.verdict

/-- A detection has ended over the source of `s` (R186). -/
structure Finished (s t : State) : Prop where
  src : t.src = s.src
  phase : t.phase = .idle
  busy : t.busy = false
  done : t.done = true

variable {s t : State}

theorem finished_finishDetection (v : Bool) (k : Option FailureKind) (hs : s.src = t.src) :
    Finished t (finishDetection v k s) :=
  ⟨hs, rfl, rfl, rfl⟩

theorem SameStatus.trans {u : State} (h : SameStatus s t) (h' : SameStatus t u) : SameStatus s u :=
  ⟨h'.src.trans h.src, h'.phase.trans h.phase, h'.busy.trans h.busy, h'.done.trans h.done, h'.verdict.trans h.verdict⟩

theorem verifyInner_sameStatus (h : HeaderRec) (next : Int) (s : State) : SameStatus s (verifyInner h next s).2 := by
  unfold verifyInner
  dsimp only
  split <;> exact ⟨rfl, rfl, rfl, rfl, rfl⟩

theorem verifyOnState_sameStatus (s : State) : SameStatus s (verifyOnState s).2 := by
  unfold verifyOnState
  split
  · exact ⟨rfl, rfl, rfl, rfl, rfl⟩
  split
  · refine .trans ?_ (verifyInner_sameStatus ..)
    exact ⟨rfl, rfl, rfl, rfl, rfl⟩
  · exact ⟨rfl, rfl, rfl, rfl, rfl⟩

/-- In IDLE a unit operation leaves the status as it stands, or is DETECT and ends a detection. -/
theorem exec_unit_idle {i : Instr} (hi : i.format = .unitOp) (hp : s.phase = .idle) (h : exec i s = .next t) :
    SameStatus s t ∨ Finished s t := by
  cases i <;> cases hi
  case detect =>
    simp only [exec, execDetect, hp] at h
    cases h
    exact .inr ⟨(verifyOnState_sameStatus _).src, rfl, rfl, rfl⟩
  case verify =>
    cases h
    exact .inl ((verifyOnState_sameStatus s).trans ⟨rfl, rfl, rfl, rfl, rfl⟩)
  case decode =>
    simp only [exec, execDecode] at h
    split at h <;> cases h <;> exact .inl ⟨rfl, rfl, rfl, rfl, rfl⟩
  case skiptag | findframe | fsize | matchHeaders =>
    cases h
    exact .inl ⟨rfl, rfl, rfl, rfl, rfl⟩

/-! ### The transitions -/

theorem forwardMiss_phase (k : Option FailureKind) (hp : s.phase = .scan1) :
    (forwardMiss k s).phase = .scan1 ∨ ((forwardMiss k s).phase = .idle ∧ (forwardMiss k s).verdict = false) := by
  obtain ⟨-, he⟩ | ⟨-, he⟩ := forwardMiss_cases k s <;> rw [he]
  · exact .inr ⟨rfl, rfl⟩
  · exact .inl hp

theorem exactMiss_phase (k : Option FailureKind) (hp : s.phase = .scan2) :
    (exactMiss k s).phase = .scan2 ∨ (exactMiss k s).phase = .idle := by
  obtain ⟨-, he⟩ | ⟨-, he⟩ := exactMiss_cases k s <;> rw [he]
  · exact .inr rfl
  · exact .inl hp

theorem secondHit_finished (h : HeaderRec) (s : State) : Finished s (secondHit h s) := by
  unfold secondHit
  split <;> exact finished_finishDetection _ _ rfl

/-- Settles O48: by the rows of the sequencer's table. -/
theorem legalPhaseTransitions : Obligations.LegalPhaseTransitions := by
  intro s t hr h
  cases stepRow_of_step h with
  | reset hr' => simp [hr] at hr'
  | waits _ hp ha =>
    cases hs : s.phase with
    | idle => exact absurd hs hp
    | tag => exact .inr ⟨hs, ha⟩
    | scan1 => exact .inl hs
    | scan2 => exact .inl hs
  | start _ hp hs => rw [hp]; exact .inr ⟨rfl, hs⟩
  | hold _ hp => rw [hp]; exact .inl hp
  | unit _ hp _ hi he =>
    rw [hp]
    obtain same | ended := exec_unit_idle hi (s := consumeInputs s) hp he
    · exact .inl (same.phase.trans hp)
    · exact .inl ended.phase
  | tag _ hp => rw [hp]; exact .inl rfl
  | forwardMiss k _ hp =>
    rw [hp]
    exact (forwardMiss_phase (s := fetched s) k hp).imp_right .inr
  | firstHit d _ hp => rw [hp]; exact .inr (.inl rfl)
  | exactMiss k _ hp => rw [hp]; exact exactMiss_phase (s := fetched s) k hp
  | secondHit d _ hp => rw [hp]; exact .inr (secondHit_finished d _).phase

/-! ### The invariant -/

theorem phaseInv_idle (hp : s.phase = .idle) : PhaseInv s ↔ s.busy = false ∧ (s.verdict = true → s.done = true) := by
  simp only [PhaseInv, hp]

theorem inv_of_finished (hi : Inv s) (h : Finished s t) : Inv t :=
  ⟨h.src ▸ hi.1, (phaseInv_idle h.phase).2 ⟨h.busy, fun _ => h.done⟩⟩

theorem inv_of_sameStatus (hp : s.phase = .idle) (hi : Inv s) (h : SameStatus s t) : Inv t := by
  obtain ⟨busy, verdict⟩ := (phaseInv_idle hp).1 hi.2
  refine ⟨h.src ▸ hi.1, (phaseInv_idle (h.phase.trans hp)).2 ⟨h.busy.trans busy, ?_⟩⟩
  rwa [h.verdict, h.done]

theorem maxTagOffset_eq : maxTagOffset = 536870931 := rfl

theorem maxScanRange_eq : Config.maxScanRange = 16384 := rfl

theorem inv_startDetection (hi : Inv s) : Inv (startDetection s) :=
  ⟨hi.1, rfl, rfl, rfl, rfl, rfl, rfl⟩

theorem inv_tagSkipped {off : Nat} (k : Option FailureKind) (hi : Inv s) (hp : s.phase = .tag) (ho : off ≤ maxTagOffset) :
    Inv (tagSkipped off k s) := by
  obtain ⟨wf, flags⟩ := hi
  simp only [PhaseInv, hp] at flags
  obtain ⟨busy, done, verdict, exact, findsub, hbValid⟩ := flags
  have origin : (BitVec.ofNat 32 off).toNat ≤ maxTagOffset := (BitVec.toNat_ofNat ..).trans_le ((Nat.mod_le ..).trans ho)
  exact ⟨wf, busy, done, verdict, exact, findsub, hbValid, rfl, Nat.zero_lt_succ _, origin, rfl⟩

theorem inv_forwardMiss (k : Option FailureKind) (hi : Inv s) (hp : s.phase = .scan1) : Inv (forwardMiss k s) := by
  obtain ⟨-, he⟩ | ⟨hn, he⟩ := forwardMiss_cases k s <;> rw [he]
  · exact inv_of_finished hi (finished_finishDetection _ _ rfl)
  obtain ⟨wf, inv⟩ := hi
  simp only [PhaseInv, hp] at inv
  obtain ⟨busy, done, verdict, exact, findsub, hbValid, step, n, origin, pc⟩ := inv
  have n_next : (s.n + 1).toNat = s.n.toNat + 1 := by bv_omega
  have := maxTagOffset_eq
  have pc_next : (s.pc + 1).toNat = s.pc.toNat + 1 := by bv_omega
  refine ⟨wf, ?_⟩
  simp only [PhaseInv, hp, n_next, pc_next]
  exact ⟨busy, done, verdict, exact, findsub, hbValid, step, hn, origin, by omega⟩

/-- The chain step puts the cursor one frame on, without a carry out of the offset, and the size fits `fsize` (R177, R240). -/
theorem inv_firstHit {h : HeaderRec} (hi : Inv s) (hp : s.phase = .scan1) (hv : validRecord h = true) :
    Inv (firstHit h s) := by
  obtain ⟨wf, inv⟩ := hi
  simp only [PhaseInv, hp] at inv
  obtain ⟨busy, done, verdict, -, -, -, -, n, origin, pc⟩ := inv
  have := maxTagOffset_eq
  have := maxScanRange_eq
  obtain ⟨low, high⟩ := frameSizeFormula_bounds hv
  have size := frameSize_valid hv
  have fsize : (BitVec.ofNat 12 (frameSize h)).toNat = frameSizeFormula h := by
    rw [size, BitVec.toNat_ofNat]
    omega
  have pc_next : (s.pc + BitVec.ofNat 32 (frameSize h)).toNat = s.pc.toNat + frameSizeFormula h := by
    rw [size, BitVec.toNat_add, BitVec.toNat_ofNat]
    omega
  exact ⟨wf, busy, done, verdict, rfl, rfl, rfl, hv, fsize, n, Nat.le_refl 1, Nat.le_add_left 1 _,
    pc_next.symm ▸ (by omega), pc_next.symm ▸ (by omega), (probePosition_zero ..).symm⟩

theorem stepReg_le_of_continues {k : Option FailureKind} (h : exactScanEnds k s = false) : s.stepReg.toNat ≤ 6 := by
  simp only [exactScanEnds, Bool.or_eq_false_iff, decide_eq_false_iff_not] at h
  exact Nat.not_lt.1 h.1

/-- The next of the seven probes (R161): the displacement, six at most, never takes the cursor below 0, because a frame is at
least 24 bytes long (R240). -/
theorem inv_exactMiss (k : Option FailureKind) (hi : Inv s) (hp : s.phase = .scan2) : Inv (exactMiss k s) := by
  obtain ⟨-, he⟩ | ⟨continues, he⟩ := exactMiss_cases k s <;> rw [he]
  · exact inv_of_finished hi (finished_finishDetection _ _ rfl)
  obtain ⟨wf, inv⟩ := hi
  simp only [PhaseInv, hp] at inv
  obtain ⟨busy, done, verdict, exact, findsub, hbValid, valid, fsize, n, step, -, low, high, pc⟩ := inv
  have step_le := stepReg_le_of_continues continues
  have step_next : (s.stepReg + 1).toNat = s.stepReg.toNat + 1 := by bv_omega
  obtain ⟨i, hs⟩ : ∃ i, s.stepReg.toNat = i + 1 := ⟨s.stepReg.toNat - 1, by omega⟩
  have probe : nextProbe s.params.probeMode s.origin.toNat s.pc.toNat s.stepReg.toNat =
      probePosition s.params.probeMode s.origin.toNat s.stepReg.toNat := by
    rw [pc, hs]
    exact nextProbe_position ..
  obtain ⟨below, above⟩ := probePosition_bounds s.params.probeMode s.origin.toNat step_le
  have pc_next : ((BitVec.ofInt 32 (probePosition s.params.probeMode s.origin.toNat s.stepReg.toNat)).toNat : Int) =
      probePosition s.params.probeMode s.origin.toNat s.stepReg.toNat := by
    have := maxTagOffset_eq
    rw [BitVec.toNat_ofInt]
    omega
  refine ⟨wf, ?_⟩
  simp only [PhaseInv, hp, probe, step_next, pc_next]
  exact ⟨busy, done, verdict, exact, findsub, hbValid, valid, fsize, n, by omega, Nat.succ_le_succ step_le, low, high, rfl⟩

theorem headerAt_valid {src : Memory} {c : Int} {h : HeaderRec} (hh : HeaderAt src c h) : validRecord h = true := by
  obtain ⟨_, _, _, _, -, -, hd⟩ := hh
  exact decodeWord_valid hd

/-- Settles O58: each row of the sequencer's table keeps the invariant. -/
theorem stepKeepsPhaseInvariant : Obligations.StepKeepsPhaseInvariant := by
  intro s t hi h
  cases stepRow_of_step h with
  | reset => exact ⟨hi.1, rfl, fun hv => by cases hv⟩
  | waits => exact hi
  | start => exact inv_startDetection hi
  | hold => exact hi
  | unit _ hp _ hu he =>
    obtain same | ended := exec_unit_idle (s := consumeInputs s) hu hp he
    · exact inv_of_sameStatus (s := consumeInputs s) hp hi same
    · exact inv_of_finished (s := consumeInputs s) hi ended
  | tag _ hp => exact inv_tagSkipped _ hi hp (skipTag_le _)
  | forwardMiss k _ hp => exact inv_forwardMiss (s := fetched s) k hi hp
  | firstHit d _ hp _ hh => exact inv_firstHit (s := fetched s) hi hp (headerAt_valid hh)
  | exactMiss k _ hp => exact inv_exactMiss (s := fetched s) k hi hp
  | secondHit d _ hp => exact inv_of_finished (s := fetched s) hi (secondHit_finished d _)

/-- Settles O59: the source is empty and the phase is IDLE. -/
theorem resetMeetsPhaseInvariant : Obligations.ResetMeetsPhaseInvariant :=
  ⟨reset_src_wf, rfl, fun hv => by cases hv⟩

/-- Settles O50: each value as the definition gives it. -/
theorem resetValues : Obligations.ResetValues :=
  ⟨rfl, rfl, rfl, rfl, rfl, rfl, rfl, rfl, rfl, rfl, rfl, rfl, rfl, rfl, rfl⟩

end Sys2Proof.Machine
end

section
/-! The byte source as data: what a read answers byte by byte (R52), and that the bytes determine the canonical form (log 1). -/

namespace Sys2Proof.Machine

/-! ### What a read answers -/

theorem readByte_of_lt {m : Memory} {a : Nat} (h : a < m.len) : m.readByte a = some (m.byteAt a) := if_pos h

/-- Settles O24: by what a read can answer, and the bytes of a slice. -/
theorem memReadAllOrNothing : Obligations.MemReadAllOrNothing := by
  intro src addr n
  obtain ⟨inside, read⟩ | ⟨beyond, read⟩ := memRead_cases src addr n
  · refine ⟨fun _ => ⟨src.slice addr n, read, slice_length .., fun k hk => ?_⟩, fun _ => by omega⟩
    rw [slice_getElem? _ _ _ _ hk, readByte_of_lt (by omega)]
  · exact ⟨fun _ => by omega, fun _ => read⟩

/-! ### The canonical form -/

variable {lo lo' hi hi' a b b' : Nat} {v v' : Byte} {l l' r r' : List Host.Cell}

theorem cellsWf_cons :
    cellsWf lo hi ((a, v) :: r) = true ↔ lo ≤ a ∧ a < hi ∧ v ≠ unlistedByte ∧ cellsWf (a + 1) hi r = true := by
  simp [cellsWf, and_assoc]

theorem lookupCell_head : lookupCell ((a, v) :: r) a = v := if_pos rfl

theorem lookupCell_tail (h : b ≠ a) : lookupCell ((b, v) :: r) a = lookupCell r a := if_neg h

/-- At `hi` and beyond nothing is listed. -/
theorem lookupCell_beyond (h : cellsWf lo hi l = true) (ha : hi ≤ a) : lookupCell l a = unlistedByte := by
  induction l generalizing lo with
  | nil => rfl
  | cons c r ih =>
    obtain ⟨-, below, -, rest⟩ := cellsWf_cons.1 h
    rw [lookupCell_tail (by omega)]
    exact ih rest

/-- A listed byte differs from the unlisted one. -/
theorem lookupCell_head_ne (h : cellsWf lo hi ((a, v) :: r) = true) : lookupCell ((a, v) :: r) a ≠ unlistedByte := by
  obtain ⟨-, -, listed, -⟩ := cellsWf_cons.1 h
  rwa [lookupCell_head]

/-- Of two canonical lists with the same bytes, none begins before the other: its first byte would be listed in it alone. -/
theorem head_le_head (h : cellsWf lo hi ((b, v) :: r) = true) (h' : cellsWf lo' hi' ((b', v') :: r') = true)
    (same : ∀ a, lookupCell ((b, v) :: r) a = lookupCell ((b', v') :: r') a) : b' ≤ b := by
  by_contra before
  obtain ⟨-, below, listed, rest⟩ := cellsWf_cons.1 h'
  have from_head : cellsWf b' hi' ((b', v') :: r') = true := cellsWf_cons.2 ⟨le_refl _, below, listed, rest⟩
  exact lookupCell_head_ne h ((same b).trans (lookupCell_below from_head (by omega)))

/-- Canonical lists with the same byte at every address are the same list. -/
theorem cells_ext (h : cellsWf lo hi l = true) (h' : cellsWf lo' hi' l' = true)
    (same : ∀ a, lookupCell l a = lookupCell l' a) : l = l' := by
  induction l generalizing l' lo lo' with
  | nil =>
    cases l' with
    | nil => rfl
    | cons c r' => exact absurd (same c.1).symm (lookupCell_head_ne h')
  | cons c r ih =>
    cases l' with
    | nil => exact absurd (same c.1) (lookupCell_head_ne h)
    | cons c' r' =>
      obtain ⟨b, v⟩ := c
      obtain ⟨b', v'⟩ := c'
      obtain rfl : b = b' := le_antisymm (head_le_head h' h fun a => (same a).symm) (head_le_head h h' same)
      obtain ⟨-, -, -, rest⟩ := cellsWf_cons.1 h
      obtain ⟨-, -, -, rest'⟩ := cellsWf_cons.1 h'
      have head : v = v' := by simpa only [lookupCell_head] using same b
      have tail (a : Nat) : lookupCell r a = lookupCell r' a := by
        by_cases hb : b = a
        · rw [lookupCell_below rest (by omega), lookupCell_below rest' (by omega)]
        · simpa only [lookupCell_tail hb] using same a
      rw [head, ih rest rest' tail]

/-- Settles O26: the canonical list of cells is determined by its bytes; beyond the length both are unlisted. -/
theorem equalSourcesAreEqualData : Obligations.EqualSourcesAreEqualData := by
  intro m m' wf wf' len bytes
  have same (a : Nat) : lookupCell m.cells a = lookupCell m'.cells a := by
    by_cases inside : a < m.len
    · have byte := bytes a inside
      rw [readByte_of_lt inside, readByte_of_lt (len ▸ inside)] at byte
      exact Option.some.inj byte
    · rw [lookupCell_beyond wf (by omega), lookupCell_beyond wf' (by omega)]
  exact congrArg₂ Memory.mk len (cells_ext wf wf' same)

end Sys2Proof.Machine
end

section
/-! The frame of the block (R61, R6): every row, unit operation and step leaves the source and the parameters as they are. -/

namespace Sys2Proof.Machine

/-- The source and the parameters of `t` are those of `s`. -/
structure SameSource (s t : State) : Prop where
  src : t.src = s.src
  params : t.params = s.params

variable {s t : State} {i : Instr}

theorem SameSource.trans {u : State} (h : SameSource s t) (h' : SameSource t u) : SameSource s u :=
  ⟨h'.src.trans h.src, h'.params.trans h.params⟩

theorem consumeInputs_sameSource (s : State) : SameSource s (consumeInputs s) := ⟨rfl, rfl⟩

theorem fetched_sameSource (s : State) : SameSource s (fetched s) := ⟨rfl, rfl⟩

/-! ### The rows -/

theorem forwardMiss_sameSource (k : Option FailureKind) (s : State) : SameSource s (forwardMiss k s) := by
  obtain ⟨-, he⟩ | ⟨-, he⟩ := forwardMiss_cases k s <;> rw [he] <;> exact ⟨rfl, rfl⟩

theorem exactMiss_sameSource (k : Option FailureKind) (s : State) : SameSource s (exactMiss k s) := by
  obtain ⟨-, he⟩ | ⟨-, he⟩ := exactMiss_cases k s <;> rw [he] <;> exact ⟨rfl, rfl⟩

theorem secondHit_sameSource (h : HeaderRec) (s : State) : SameSource s (secondHit h s) := by
  unfold secondHit
  split <;> exact ⟨rfl, rfl⟩

theorem failedAttempt_sameSource (k : Option FailureKind) (s : State) : SameSource s (failedAttempt k s) := by
  unfold failedAttempt
  split
  · exact forwardMiss_sameSource k s
  · exact exactMiss_sameSource k s
  all_goals exact ⟨rfl, rfl⟩

theorem headerHit_sameSource (h : HeaderRec) (s : State) : SameSource s (headerHit h s) := by
  unfold headerHit
  split
  · exact ⟨rfl, rfl⟩
  · exact secondHit_sameSource h s
  all_goals exact ⟨rfl, rfl⟩

theorem tagRow_sameSource (len : Nat) (s : State) : SameSource s (tagRow len s) := by
  unfold tagRow
  split <;> exact ⟨rfl, rfl⟩

/-! ### The unit operations -/

theorem verifyInner_params (h : HeaderRec) (next : Int) (s : State) : (verifyInner h next s).2.params = s.params := by
  unfold verifyInner
  dsimp only
  split <;> rfl

theorem verifyOnState_sameSource (s : State) : SameSource s (verifyOnState s).2 := by
  refine ⟨(verifyOnState_sameStatus s).src, ?_⟩
  unfold verifyOnState
  split
  · rfl
  split
  · exact verifyInner_params ..
  · rfl

/-- A unit operation in any phase. All but VERIFY, and DETECT which runs it, write registers only. -/
theorem exec_unit_sameSource (hi : i.format = .unitOp) (h : exec i s = .next t) : SameSource s t := by
  cases i <;> cases hi
  case detect =>
    simp only [exec, execDetect] at h
    split at h <;> cases h
    · exact ⟨(verifyOnState_sameSource _).src, (verifyOnState_sameSource _).params⟩
    all_goals exact ⟨rfl, rfl⟩
  case verify =>
    cases h
    exact (verifyOnState_sameSource s).trans ⟨rfl, rfl⟩
  case decode =>
    simp only [exec, execDecode] at h
    split at h <;> cases h <;> exact ⟨rfl, rfl⟩
  case skiptag | findframe | fsize | matchHeaders =>
    cases h
    exact ⟨rfl, rfl⟩

/-! ### Every instruction and every step -/

theorem headerRow_isSome (hi : i.format = .mpegHdr32) : ((rowRecord i).isSome || (rejectKind i).isSome) = true := by
  cases i <;> cases hi <;> rfl

/-- A row of the 4-byte format is a valid row or a reject row. -/
theorem headerRow_cases (hi : i.format = .mpegHdr32) :
    (∃ h, rowRecord i = some h) ∨ ∃ k, rejectKind i = some k := by
  have h := headerRow_isSome hi
  rwa [Bool.or_eq_true, Option.isSome_iff_exists, Option.isSome_iff_exists] at h

/-- A row of the 10-byte format is one of the two tag rows. -/
theorem tagRow_cases (hi : i.format = .id3v2Hdr80) : ∃ footer f, i = tagInstr footer f := by
  cases i <;> cases hi
  case id3v2TagNoFooter f => exact ⟨false, f, rfl⟩
  case id3v2TagFooter f => exact ⟨true, f, rfl⟩

theorem exec_sameSource (h : exec i s = .next t) : SameSource s t := by
  cases hf : i.format with
  | mpegHdr32 =>
    obtain ⟨d, hd⟩ | ⟨k, hk⟩ := headerRow_cases hf
    · rw [exec_of_rowRecord hd] at h
      cases h
      exact headerHit_sameSource d s
    · rw [exec_of_rejectKind hk] at h
      cases h
      exact failedAttempt_sameSource k s
  | id3v2Hdr80 =>
    obtain ⟨footer, f, rfl⟩ := tagRow_cases hf
    rw [exec_tagInstr] at h
    cases h
    exact tagRow_sameSource _ s
  | unitOp => exact exec_unit_sameSource hf h

theorem step_sameSource (h : step s = .next t) : SameSource s t := by
  cases stepRow_of_step h with
  | reset | waits | start | hold | tag | firstHit => exact ⟨rfl, rfl⟩
  | unit _ _ _ _ he => exact (consumeInputs_sameSource s).trans (exec_sameSource he)
  | forwardMiss k => exact (fetched_sameSource s).trans (forwardMiss_sameSource k _)
  | exactMiss k => exact (fetched_sameSource s).trans (exactMiss_sameSource k _)
  | secondHit d => exact (fetched_sameSource s).trans (secondHit_sameSource d _)

/-- Settles O25: by the frame of every row and of every step. -/
theorem sourceNeverWritten : Obligations.SourceNeverWritten :=
  ⟨fun _ _ _ h => ⟨(exec_sameSource h).src, (exec_sameSource h).params⟩,
    fun _ _ h => ⟨(step_sameSource h).src, (step_sameSource h).params⟩⟩

end Sys2Proof.Machine
end

section
/-! The decoder and the encoder are inverse to each other on each format (R71, R80, R87): what an answer of the decoder says of
the bytes it came from, and the row that a well-formed instruction's fields classify to (R84, R114, log 5). -/

namespace Sys2Proof.Machine

/-! ### What the decoder answers -/

theorem decode_header_ok {bs : List Byte} {i : Instr} (h : decode .mpegHdr32 bs = .ok i) :
    ∃ b0 b1 b2 b3, bs = [b0, b1, b2, b3] ∧ decodeHeaderWord (wordOfBytes b0 b1 b2 b3) = .ok i := by
  simp only [decode] at h
  split at h
  · exact ⟨_, _, _, _, rfl, h⟩
  · cases h

/-- A word is a row only if it has sync, and then it is the row of its fields. -/
theorem decodeHeaderWord_ok {w : Word} {i : Instr} :
    decodeHeaderWord w = .ok i ↔
      syncField w = 0x7FF ∧ classify (versionField w) (layerField w) (fieldsOfWord w) = i := by
  by_cases sync : syncField w = 0x7FF
  · simp only [decodeHeaderWord, sync, if_true, true_and, Except.ok.injEq]
  · simp only [decodeHeaderWord, sync, if_false, false_and, reduceCtorEq]

theorem decode_tag_ok {bs : List Byte} {i : Instr} (h : decode .id3v2Hdr80 bs = .ok i) :
    ∃ t3 t4 t5 t6 t7 t8 t9, bs = [0x49, 0x44, 0x33, t3, t4, t5, t6, t7, t8, t9] ∧
      i = tagInstr (footerFlag t5) (tagFieldsOf t3 t4 t5 t6 t7 t8 t9) := by
  match bs, h with
  | [t0, t1, t2, t3, t4, t5, t6, t7, t8, t9], h =>
    by_cases signature : t0 = 0x49 ∧ t1 = 0x44 ∧ t2 = 0x33
    · obtain ⟨rfl, rfl, rfl⟩ := signature
      rw [decode_signed] at h
      exact ⟨t3, t4, t5, t6, t7, t8, t9, rfl, (Except.ok.inj h).symm⟩
    · rw [decode_unsigned signature] at h
      cases h

theorem decode_unit_ok {bs : List Byte} {i : Instr} (h : decode .unitOp bs = .ok i) :
    ∃ b, bs = [b] ∧ decodeUnitCode b = .ok i := by
  simp only [decode] at h
  split at h
  · exact ⟨_, rfl, h⟩
  · cases h

/-! ### The row of the fields -/

theorem clean_iff {f : HdrFields} :
    f.clean = true ↔ f.bitrate ≠ 15 ∧ f.bitrate ≠ 0 ∧ f.srate ≠ 3 ∧ f.emph ≠ 2 := by
  simp [HdrFields.clean, and_assoc]

theorem m1l2Cell_iff {f : HdrFields} {bi : BitVec 4} {cm : BitVec 2} :
    f.m1l2Cell bi cm = true ↔ f.bitrate = bi ∧ f.cmode = cm ∧ f.srate ≠ 3 ∧ f.emph ≠ 2 := by
  simp [HdrFields.m1l2Cell, and_assoc]

/-- Away from index 15 the disallowed cells are those that ALLOWED forbids (R35, R112). -/
theorem m1l2Disallowed_eq {f : HdrFields} (h15 : f.bitrate ≠ 15) :
    f.m1l2Disallowed = !allowedTable f.bitrate (f.cmode == 3) := by
  simp only [HdrFields.m1l2Disallowed]
  generalize f.bitrate = bi at h15
  generalize f.cmode = cm
  revert bi cm
  decide

/-- The row of fields without a defect of steps 1 to 12: by version and layer, and for MPEG1 Layer2 by ALLOWED (R112, R114). -/
def cleanRow (v lr : BitVec 2) (f : HdrFields) : Instr :=
  if v = 3 then
    if lr = 3 then .hdrMpeg1L1 f else if lr = 2 then classifyMpeg1L2 f else .hdrMpeg1L3 f
  else if v = 2 then
    if lr = 3 then .hdrMpeg2L1 f else if lr = 2 then .hdrMpeg2L2 f else .hdrMpeg2L3 f
  else
    if lr = 3 then .hdrMpeg25L1 f else if lr = 2 then .hdrMpeg25L2 f else .hdrMpeg25L3 f

section Classify
variable {v lr : BitVec 2} {f : HdrFields}

theorem wellFormed_mpeg1L2 : (Instr.hdrMpeg1L2 f).wellFormed = true ↔ f.clean = true ∧ f.m1l2Disallowed = false := by
  simp [Instr.wellFormed]

theorem wellFormed_version : (Instr.hdrRejectVersionReserved lr f).wellFormed = true ↔ f.bitrate ≠ 15 := bne_iff_ne

theorem wellFormed_layer : (Instr.hdrRejectLayerReserved v f).wellFormed = true ↔ f.bitrate ≠ 15 ∧ v ≠ 1 := by
  simp [Instr.wellFormed]

theorem wellFormed_index15 : (Instr.hdrRejectBitrateIndex15 v lr f).wellFormed = true ↔ f.bitrate = 15 := beq_iff_eq

theorem wellFormed_index0 :
    (Instr.hdrRejectBitrateIndex0 v lr f).wellFormed = true ↔ f.bitrate = 0 ∧ v ≠ 1 ∧ lr ≠ 0 := by
  simp [Instr.wellFormed, and_assoc]

theorem wellFormed_samplerate :
    (Instr.hdrRejectSamplerateIndex3 v lr f).wellFormed = true ↔
      f.srate = 3 ∧ f.bitrate ≠ 15 ∧ f.bitrate ≠ 0 ∧ v ≠ 1 ∧ lr ≠ 0 := by
  simp [Instr.wellFormed, and_assoc]

theorem wellFormed_emphasis :
    (Instr.hdrRejectEmphasisReserved v lr f).wellFormed = true ↔
      f.emph = 2 ∧ f.srate ≠ 3 ∧ f.bitrate ≠ 15 ∧ f.bitrate ≠ 0 ∧ v ≠ 1 ∧ lr ≠ 0 := by
  simp [Instr.wellFormed, and_assoc]

theorem classify_index15 (h15 : f.bitrate = 15) : classify v lr f = .hdrRejectBitrateIndex15 v lr f :=
  if_pos h15

theorem classify_version (h15 : f.bitrate ≠ 15) : classify 1 lr f = .hdrRejectVersionReserved lr f := by
  rw [classify, if_neg h15, if_pos rfl]

theorem classify_layer (h15 : f.bitrate ≠ 15) (hv : v ≠ 1) : classify v 0 f = .hdrRejectLayerReserved v f := by
  rw [classify, if_neg h15, if_neg hv, if_pos rfl]

theorem classify_index0 (h0 : f.bitrate = 0) (hv : v ≠ 1) (hl : lr ≠ 0) :
    classify v lr f = .hdrRejectBitrateIndex0 v lr f := by
  rw [classify, if_neg (by rw [h0]; decide), if_neg hv, if_neg hl, if_pos h0]

theorem classify_samplerate (hs : f.srate = 3) (h15 : f.bitrate ≠ 15) (h0 : f.bitrate ≠ 0) (hv : v ≠ 1) (hl : lr ≠ 0) :
    classify v lr f = .hdrRejectSamplerateIndex3 v lr f := by
  rw [classify, if_neg h15, if_neg hv, if_neg hl, if_neg h0, if_pos hs]

theorem classify_emphasis (he : f.emph = 2) (hs : f.srate ≠ 3) (h15 : f.bitrate ≠ 15) (h0 : f.bitrate ≠ 0) (hv : v ≠ 1)
    (hl : lr ≠ 0) : classify v lr f = .hdrRejectEmphasisReserved v lr f := by
  rw [classify, if_neg h15, if_neg hv, if_neg hl, if_neg h0, if_neg hs, if_pos he]

theorem classify_clean (hc : f.clean = true) (hv : v ≠ 1) (hl : lr ≠ 0) : classify v lr f = cleanRow v lr f := by
  obtain ⟨h15, h0, hs, he⟩ := clean_iff.1 hc
  rw [classify, if_neg h15, if_neg hv, if_neg hl, if_neg h0, if_neg hs, if_neg he, cleanRow]

/-- The sixteen cells are clean, so their words get as far as ALLOWED. -/
theorem clean_of_cell {bi : BitVec 4} {cm : BitVec 2} (hw : f.m1l2Cell bi cm = true) (h15 : bi ≠ 15) (h0 : bi ≠ 0) :
    f.clean = true := by
  obtain ⟨rfl, -, hs, he⟩ := m1l2Cell_iff.1 hw
  exact clean_iff.2 ⟨h15, h0, hs, he⟩

/-- The fields stand in none of the cells that ALLOWED forbids. -/
theorem not_cell_of_allowed {bi : BitVec 4} {cm : BitVec 2} (allowed : allowedTable f.bitrate (f.cmode == 3) = true)
    (forbidden : allowedTable bi (cm == 3) = false) : ¬ (f.bitrate = bi ∧ f.cmode = cm) := by
  rintro ⟨rfl, rfl⟩
  rw [allowed] at forbidden
  cases forbidden

/-- A row of MPEG1 Layer2 is the valid one exactly outside the sixteen cells: each test of the classification is a cell that
ALLOWED forbids, and the valid row has a record. -/
theorem classifyMpeg1L2_eq_valid_iff (h15 : f.bitrate ≠ 15) :
    classifyMpeg1L2 f = .hdrMpeg1L2 f ↔ f.m1l2Disallowed = false := by
  rw [m1l2Disallowed_eq h15, Bool.not_eq_false']
  constructor
  · intro valid
    have record := classifyMpeg1L2_record h15
    by_contra forbidden
    rw [valid, if_neg forbidden] at record
    cases record
  · intro allowed
    unfold classifyMpeg1L2
    iterate 16 refine Eq.trans (if_neg (not_cell_of_allowed allowed rfl)) ?_
    rfl

end Classify

/-! ### Decoding after encoding -/

theorem decode_wordOfFields (v lr : BitVec 2) (f : HdrFields) :
    decode .mpegHdr32 (bytesOfWord (wordOfFields v lr f)) = .ok (classify v lr f) := by
  rw [decode_bytesOfWord, decodeHeaderWord_ok, versionField_wordOfFields, layerField_wordOfFields,
    fieldsOfWord_wordOfFields]
  exact ⟨syncField_wordOfFields v lr f, rfl⟩

theorem decode_row {v lr : BitVec 2} {f : HdrFields} {i : Instr} (hi : classify v lr f = i) :
    decode .mpegHdr32 (bytesOfWord (wordOfFields v lr f)) = .ok i :=
  hi ▸ decode_wordOfFields v lr f

theorem decode_encode_header {i : Instr} (hi : i.format = .mpegHdr32) (hw : i.wellFormed = true) :
    decode .mpegHdr32 (encode i) = .ok i := by
  cases i <;> cases hi
  case hdrMpeg1L1 f | hdrMpeg1L3 f | hdrMpeg2L1 f | hdrMpeg2L2 f | hdrMpeg2L3 f | hdrMpeg25L1 f | hdrMpeg25L2 f |
      hdrMpeg25L3 f =>
    exact decode_row (classify_clean hw (by decide) (by decide))
  case hdrMpeg1L2 f =>
    obtain ⟨clean, allowed⟩ := wellFormed_mpeg1L2.1 hw
    have valid := (classifyMpeg1L2_eq_valid_iff (clean_iff.1 clean).1).2 allowed
    exact decode_row ((classify_clean clean (by decide) (by decide)).trans valid)
  case hdrRejectVersionReserved lr f => exact decode_row (classify_version (wellFormed_version.1 hw))
  case hdrRejectLayerReserved v f =>
    obtain ⟨h15, hv⟩ := wellFormed_layer.1 hw
    exact decode_row (classify_layer h15 hv)
  case hdrRejectBitrateIndex15 v lr f => exact decode_row (classify_index15 (wellFormed_index15.1 hw))
  case hdrRejectBitrateIndex0 v lr f =>
    obtain ⟨h0, hv, hl⟩ := wellFormed_index0.1 hw
    exact decode_row (classify_index0 h0 hv hl)
  case hdrRejectSamplerateIndex3 v lr f =>
    obtain ⟨hs, h15, h0, hv, hl⟩ := wellFormed_samplerate.1 hw
    exact decode_row (classify_samplerate hs h15 h0 hv hl)
  case hdrRejectEmphasisReserved v lr f =>
    obtain ⟨he, hs, h15, h0, hv, hl⟩ := wellFormed_emphasis.1 hw
    exact decode_row (classify_emphasis he hs h15 h0 hv hl)
  all_goals
    obtain ⟨hb, hc, -, -⟩ := m1l2Cell_iff.1 hw
    refine decode_row ((classify_clean (clean_of_cell hw (by decide) (by decide)) (by decide) (by decide)).trans ?_)
    simp [cleanRow, classifyMpeg1L2, hb, hc]

theorem footerFlag_flagsByte (a : BitVec 3) (footer : Bool) (b : BitVec 4) : footerFlag (flagsByte a footer b) = footer := by
  revert a footer b
  decide

theorem flagsByte_high (a : BitVec 3) (footer : Bool) (b : BitVec 4) : (flagsByte a footer b).extractLsb' 5 3 = a := by
  revert a footer b
  decide

theorem flagsByte_low (a : BitVec 3) (footer : Bool) (b : BitVec 4) : (flagsByte a footer b).extractLsb' 0 4 = b :=
  BitVec.extractLsb'_append_eq_right

theorem encode_tagInstr (footer : Bool) (t : TagFields) : encode (tagInstr footer t) = bytesOfTag footer t := by
  cases footer <;> rfl

theorem decode_bytesOfTag (footer : Bool) (t : TagFields) :
    decode .id3v2Hdr80 (bytesOfTag footer t) = .ok (tagInstr footer t) := by
  refine decode_signed.trans ?_
  rw [footerFlag_flagsByte, tagFieldsOf, flagsByte_high, flagsByte_low]

/-- Settles O1: a header row is the row its fields classify to, a tag row is read back field by field, and a unit is its code. -/
theorem decodeOfEncode : Obligations.DecodeOfEncode := by
  intro i hw
  cases hf : i.format with
  | mpegHdr32 => exact decode_encode_header hf hw
  | id3v2Hdr80 =>
    obtain ⟨footer, t, rfl⟩ := tagRow_cases hf
    rw [encode_tagInstr]
    exact decode_bytesOfTag footer t
  | unitOp => cases i <;> cases hf <;> rfl

/-! ### Encoding after decoding -/

/-- What `EncodeOfDecode` asks of a row of the word of these fields. -/
structure RowOfFields (v lr : BitVec 2) (f : HdrFields) (i : Instr) : Prop where
  wellFormed : i.wellFormed = true
  format : i.format = .mpegHdr32
  bytes : encode i = bytesOfWord (wordOfFields v lr f)

section Rows
variable {v lr : BitVec 2} {f : HdrFields}

theorem m1l2Cell_of_clean {bi : BitVec 4} {cm : BitVec 2} (hc : f.clean = true) (h : f.bitrate = bi ∧ f.cmode = cm) :
    f.m1l2Cell bi cm = true := by
  obtain ⟨-, -, hs, he⟩ := clean_iff.1 hc
  exact m1l2Cell_iff.2 ⟨h.1, h.2, hs, he⟩

/-- The valid row, or the row of the cell whose test the fields meet. -/
theorem classifyMpeg1L2_valid_or_cell (hc : f.clean = true) :
    classifyMpeg1L2 f = .hdrMpeg1L2 f ∨ RowOfFields 3 2 f (classifyMpeg1L2 f) := by
  unfold classifyMpeg1L2
  iterate 16
    refine iteInduction (motive := fun i => i = Instr.hdrMpeg1L2 f ∨ RowOfFields 3 2 f i)
      (fun h => .inr ⟨m1l2Cell_of_clean hc h, rfl, rfl⟩) fun _ => ?_
  exact .inl rfl

theorem classifyMpeg1L2_row (hc : f.clean = true) : RowOfFields 3 2 f (classifyMpeg1L2 f) := by
  obtain valid | cell := classifyMpeg1L2_valid_or_cell hc
  · rw [valid]
    exact ⟨wellFormed_mpeg1L2.2 ⟨hc, (classifyMpeg1L2_eq_valid_iff (clean_iff.1 hc).1).1 valid⟩, rfl, rfl⟩
  · exact cell

theorem cleanRow_row (hc : f.clean = true) (hv : v ≠ 1) (hl : lr ≠ 0) : RowOfFields v lr f (cleanRow v lr f) := by
  have versions : v = 3 ∨ v = 2 ∨ v = 0 := by
    revert v
    decide
  have layers : lr = 3 ∨ lr = 2 ∨ lr = 1 := by
    revert lr
    decide
  obtain rfl | rfl | rfl := versions <;> obtain rfl | rfl | rfl := layers
  case inl.inr.inl => exact classifyMpeg1L2_row hc
  all_goals exact ⟨hc, rfl, rfl⟩

/-- In the order of rejection of R114, index 15 first (log 5). -/
theorem classify_rowOfFields (v lr : BitVec 2) (f : HdrFields) : RowOfFields v lr f (classify v lr f) := by
  by_cases h15 : f.bitrate = 15
  · rw [classify_index15 h15]
    exact ⟨wellFormed_index15.2 h15, rfl, rfl⟩
  by_cases hv : v = 1
  · rw [hv, classify_version h15]
    exact ⟨wellFormed_version.2 h15, rfl, rfl⟩
  by_cases hl : lr = 0
  · rw [hl, classify_layer h15 hv]
    exact ⟨wellFormed_layer.2 ⟨h15, hv⟩, rfl, rfl⟩
  by_cases h0 : f.bitrate = 0
  · rw [classify_index0 h0 hv hl]
    exact ⟨wellFormed_index0.2 ⟨h0, hv, hl⟩, rfl, rfl⟩
  by_cases hs : f.srate = 3
  · rw [classify_samplerate hs h15 h0 hv hl]
    exact ⟨wellFormed_samplerate.2 ⟨hs, h15, h0, hv, hl⟩, rfl, rfl⟩
  by_cases he : f.emph = 2
  · rw [classify_emphasis he hs h15 h0 hv hl]
    exact ⟨wellFormed_emphasis.2 ⟨he, hs, h15, h0, hv, hl⟩, rfl, rfl⟩
  have hc : f.clean = true := clean_iff.2 ⟨h15, h0, hs, he⟩
  rw [classify_clean hc hv hl]
  exact cleanRow_row hc hv hl

end Rows

theorem tagInstr_wellFormed (footer : Bool) (t : TagFields) : (tagInstr footer t).wellFormed = true := by
  cases footer <;> rfl

theorem tagInstr_format (footer : Bool) (t : TagFields) : (tagInstr footer t).format = .id3v2Hdr80 := by
  cases footer <;> rfl

theorem flagsByte_of_byte (b5 : Byte) : flagsByte (b5.extractLsb' 5 3) (footerFlag b5) (b5.extractLsb' 0 4) = b5 := by
  revert b5
  decide

/-- A unit's code is the byte it is decoded from. -/
theorem encode_of_decodeUnitCode {b : Byte} {i : Instr} (h : decodeUnitCode b = .ok i) : encode i = [b] := by
  unfold decodeUnitCode at h
  split at h <;> cases h
  all_goals exact congrArg (fun c => [c]) (BitVec.eq_of_toNat_eq (Eq.symm ‹_›))

/-- Settles O2: format by format, from what the decoder's answer says of the bytes. -/
theorem encodeOfDecode : Obligations.EncodeOfDecode := by
  intro fmt bs i h
  cases fmt with
  | mpegHdr32 =>
    obtain ⟨b0, b1, b2, b3, rfl, hd⟩ := decode_header_ok h
    obtain ⟨sync, rfl⟩ := decodeHeaderWord_ok.1 hd
    obtain ⟨wf, format, bytes⟩ := classify_rowOfFields (versionField (wordOfBytes b0 b1 b2 b3))
      (layerField (wordOfBytes b0 b1 b2 b3)) (fieldsOfWord (wordOfBytes b0 b1 b2 b3))
    rw [wordOfFields_of_word sync, bytesOfWord_of_bytes] at bytes
    exact ⟨wf, format, bytes⟩
  | id3v2Hdr80 =>
    obtain ⟨t3, t4, t5, t6, t7, t8, t9, rfl, rfl⟩ := decode_tag_ok h
    refine ⟨tagInstr_wellFormed .., tagInstr_format .., ?_⟩
    rw [encode_tagInstr, bytesOfTag, tagFieldsOf, flagsByte_of_byte]
    rfl
  | unitOp =>
    obtain ⟨b, rfl, hd⟩ := decode_unit_ok h
    have format := decode_unitOp_format h
    exact ⟨by cases i <;> cases format <;> rfl, format, encode_of_decodeUnitCode hd⟩

end Sys2Proof.Machine
end

section
/-! The rows of the table and the decoder DECODE answer the same of a word (R84, R100, R114), DECODE reads bits 20:0 only (R72),
the tag size is bounded (R81, R82), and a step runs the row that its fetch decodes to (R70, R188). -/

namespace Sys2Proof.Machine

/-! ### The rows and DECODE -/

theorem decodeWord_ok_iff {w : Word} {h : HeaderRec} :
    decodeWord w = .ok h ↔
      fieldsOk (versionField w) (layerIndex (layerField w)) (fieldsOfWord w) ∧
      h = assembleHeader (versionField w) (layerIndex (layerField w)) (fieldsOfWord w) := by
  refine ⟨decodeWord_ok, fun ⟨hf, he⟩ => ?_⟩
  obtain ⟨-, hd⟩ | ⟨hn, -⟩ := decodeWord_eq w
  · rw [hd, he]
  · exact absurd hf hn

theorem decodeWord_error_iff {w : Word} : decodeWord w = .error .invalidHeader ↔ ∀ h, decodeWord w ≠ .ok h := by
  obtain ⟨-, hd⟩ | ⟨-, hd⟩ := decodeWord_eq w <;> simp [hd]

/-- No row is both a valid row and a reject row. -/
theorem rejectKind_of_rowRecord {i : Instr} {h : HeaderRec} (hi : rowRecord i = some h) : rejectKind i = none := by
  cases i <;> simp only [rowRecord, reduceCtorEq] at hi <;> rfl

theorem rejectKind_eq_some_none {i : Instr} (hi : rejectKind i = some none) :
    ∃ v lr f, i = .hdrRejectBitrateIndex15 v lr f := by
  cases i <;> simp only [rejectKind, Option.some.injEq, reduceCtorEq] at hi
  case hdrRejectBitrateIndex15 v lr f => exact ⟨v, lr, f, rfl⟩

theorem wordOfBytes_of_bytesOfWord {w : Word} {b0 b1 b2 b3 : Byte} (h : bytesOfWord w = [b0, b1, b2, b3]) :
    wordOfBytes b0 b1 b2 b3 = w := by
  simp only [bytesOfWord, List.cons.injEq, and_true] at h
  obtain ⟨rfl, rfl, rfl, rfl⟩ := h
  exact wordOfBytes_of_word w

section FetchedWord
variable {b0 b1 b2 b3 : Byte} {i : Instr}

theorem rowRecord_iff_decodeWord (hd : decode .mpegHdr32 [b0, b1, b2, b3] = .ok i) (h : HeaderRec) :
    rowRecord i = some h ↔ decodeWord (wordOfBytes b0 b1 b2 b3) = .ok h := by
  obtain ⟨-, rfl⟩ := decodeHeaderWord_ok.1 hd
  exact classify_record.trans decodeWord_ok_iff.symm

/-- A fetched row is valid or rejected, so it is rejected exactly where it has no record. -/
theorem rejectKind_iff_decodeWord (hd : decode .mpegHdr32 [b0, b1, b2, b3] = .ok i) :
    (∃ k, rejectKind i = some k) ↔ decodeWord (wordOfBytes b0 b1 b2 b3) = .error .invalidHeader := by
  rw [decodeWord_error_iff]
  constructor
  · rintro ⟨k, hk⟩ h he
    rw [rejectKind_of_rowRecord ((rowRecord_iff_decodeWord hd h).2 he)] at hk
    cases hk
  · intro no_record
    obtain ⟨-, format, -⟩ := encodeOfDecode _ _ _ hd
    obtain ⟨h, hh⟩ | reject := headerRow_cases format
    · exact absurd ((rowRecord_iff_decodeWord hd h).1 hh) (no_record h)
    · exact reject

theorem isCandidate_eq_false_iff (sync : syncField (wordOfBytes b0 b1 b2 b3) = 0x7FF) :
    isCandidate b0 b1 b2 = false ↔ (fieldsOfWord (wordOfBytes b0 b1 b2 b3)).bitrate = 15 := by
  rw [← Bool.not_eq_true, isCandidate_fields b0 b1 b2 b3, and_iff_right sync, not_not]

/-- The row of index 15 encodes words of index 15 only, and the bytes are its encoding. -/
theorem rejectKind_none_iff_not_candidate (hd : decode .mpegHdr32 [b0, b1, b2, b3] = .ok i) :
    rejectKind i = some none ↔ isCandidate b0 b1 b2 = false := by
  obtain ⟨sync, hi⟩ := decodeHeaderWord_ok.1 hd
  rw [isCandidate_eq_false_iff sync]
  constructor
  · intro hk
    obtain ⟨v, lr, f, rfl⟩ := rejectKind_eq_some_none hk
    obtain ⟨wf, -, bytes⟩ := encodeOfDecode _ _ _ hd
    rw [wordOfBytes_of_bytesOfWord bytes, fieldsOfWord_wordOfFields]
    exact wellFormed_index15.1 wf
  · intro h15
    rw [← hi, classify_index15 h15]
    rfl

end FetchedWord

/-- Settles O6: by the record of the fetched row, and by the row of index 15. -/
theorem rowsAgreeWithDecoder : Obligations.RowsAgreeWithDecoder := fun _ _ _ _ _ hd =>
  ⟨rowRecord_iff_decodeWord hd, rejectKind_iff_decodeWord hd, rejectKind_none_iff_not_candidate hd⟩

/-! ### DECODE and the sync bits -/

/-- Words that agree in their low bits agree in every field that lies in them. -/
theorem extract_eq_of_low {w w' : Word} {lo len top : Nat} (h : w.extractLsb' 0 top = w'.extractLsb' 0 top)
    (inside : lo + len ≤ top) : w.extractLsb' lo len = w'.extractLsb' lo len := by
  rw [← BitVec.extractLsb'_extractLsb'_of_le inside, h, BitVec.extractLsb'_extractLsb'_of_le inside]

/-- DECODE is a function of the version, the layer and the fields below them. -/
theorem decodeWord_congr {w w' : Word} (hv : versionField w = versionField w') (hl : layerField w = layerField w')
    (hf : fieldsOfWord w = fieldsOfWord w') : decodeWord w = decodeWord w' := by
  simp only [decodeWord, hv, hl, hf]

/-- Settles O9: every field that DECODE reads lies in bits 20:0. -/
theorem decodeIgnoresSyncBits : Obligations.DecodeIgnoresSyncBits := by
  intro w w' h
  have same {lo len : Nat} (inside : lo + len ≤ 21) : w.extractLsb' lo len = w'.extractLsb' lo len :=
    extract_eq_of_low h inside
  refine decodeWord_congr (same (by decide)) (same (by decide)) ?_
  rw [fieldsOfWord, fieldsOfWord, HdrFields.mk.injEq]
  refine ⟨?_, ?_, ?_, ?_, ?_, ?_, ?_, ?_, ?_, ?_⟩ <;> exact same (by decide)

/-! ### The tag size -/

/-- The OR of a multiple of a power of two and a number below it carries nothing. -/
theorem or_eq_add_of_dvd {a b i : Nat} (ha : 2 ^ i ∣ a) (hb : b < 2 ^ i) : a ||| b = a + b := by
  obtain ⟨c, rfl⟩ := ha
  exact (Nat.two_pow_add_eq_or_of_lt hb c).symm

/-- Below 0x80 the four shifted bytes overlap nowhere (R81). -/
theorem syncsafe_eq_sum {b6 b7 b8 b9 : Byte} (h7 : b7.toNat < 0x80) (h8 : b8.toNat < 0x80) (h9 : b9.toNat < 0x80) :
    syncsafe b6 b7 b8 b9 = b6.toNat * 2 ^ 21 + b7.toNat * 2 ^ 14 + b8.toNat * 2 ^ 7 + b9.toNat := by
  simp only [syncsafe, Nat.shiftLeft_eq]
  rw [or_eq_add_of_dvd (a := b6.toNat * _) (i := 21) (by omega) (by omega),
    or_eq_add_of_dvd (b := b8.toNat * _) (i := 14) (by omega) (by omega),
    or_eq_add_of_dvd (i := 7) (by omega) (by omega)]

/-- Settles O20: by the sum for syncsafe bytes, and by the bound on 29 bits for any bytes (D14). -/
theorem tagSizeBounds : Obligations.TagSizeBounds := by
  refine ⟨fun b6 b7 b8 b9 h6 h7 h8 h9 => ?_, fun b6 b7 b8 b9 => ?_, rfl, fun footer b6 b7 b8 b9 => ⟨rfl, ?_⟩⟩
  · have sum := syncsafe_eq_sum (b6 := b6) h7 h8 h9
    exact ⟨sum, by omega⟩
  · exact Nat.le_of_lt_succ (syncsafe_lt b6 b7 b8 b9)
  · exact tagFieldsLength_le footer (tagFieldsOf 0 0 0 b6 b7 b8 b9)

/-! ### Written words -/

/-- Settles O3: each word by evaluating the decoder on its bytes. -/
theorem writtenWordsDecode : Obligations.WrittenWordsDecode :=
  ⟨rfl, rfl, rfl, rfl, rfl, rfl, rfl, rfl, rfl, rfl, rfl⟩

/-! ### The step -/

/-- A tag probe whose bytes decode to a row runs the row. -/
theorem stepTag_row {s : State} {bs : List Byte} {i : Instr} (h : memRead s.src 0 10 = .bytes bs)
    (hd : decode .id3v2Hdr80 bs = .ok i) : stepTag s = exec i (latchTag 0 (.bytes bs) (consumeInputs s)) := by
  simp only [stepTag, h, hd]

/-- A requested code that names a unit runs the unit. -/
theorem stepIdle_row {s : State} {b : Byte} {i : Instr} (hs : s.start = false) (hu : s.unitReq = some b)
    (hd : decode .unitOp [b] = .ok i) : stepIdle s = exec i (consumeInputs s) := by
  simp only [stepIdle, hs, hu, hd, Bool.false_eq_true, if_false]

/-- Settles O56: the fetch of each phase, and the row it decodes to. -/
theorem stepRunsTheDecodedRow : Obligations.StepRunsTheDecodedRow := by
  refine ⟨fun s bs i ⟨hr, ha⟩ hp read hd => ?_, fun s bs i ⟨hr, ha⟩ hp read hd => ?_, fun s b i hr hp hs hu hd => ?_⟩
  · exact (step_scan hr hp ha).trans (stepScan_row read hd)
  · exact (step_tag hr hp ha).trans (stepTag_row read hd)
  · exact (step_idle hr hp).trans (stepIdle_row hs hu hd)

end Sys2Proof.Machine
end

section
/-! What DECODE answers (R100 to R113), from R113's conditions on the fields and from the record assembled of them. -/

namespace Sys2Proof.Machine

/-! ### When DECODE answers Ok -/

theorem decodeWord_succeeds_iff {w : Word} :
    (∃ h, decodeWord w = .ok h) ↔ fieldsOk (versionField w) (layerIndex (layerField w)) (fieldsOfWord w) := by
  simp only [decodeWord_ok_iff, exists_and_left, exists_eq, and_true]

theorem layerIndex_eq_one (lr : BitVec 2) : layerIndex lr = 1 ↔ lr = 2 := by
  revert lr
  decide

/-- Neither free format (index 15, R105) nor a rate of zero (index 0, R106), as a range. -/
theorem bitrateIndex_range (bi : BitVec 4) : bi ≠ 15 ∧ bi ≠ 0 ↔ 1 ≤ bi.toNat ∧ bi.toNat ≤ 14 := by
  revert bi
  decide

/-- The cells of ALLOWED in that range: mono ends at index 10, the other modes leave out 1, 2, 3 and 5 (R35). -/
theorem allowedTable_iff {bi : BitVec 4} {cm : BitVec 2} (index : 1 ≤ bi.toNat ∧ bi.toNat ≤ 14) :
    allowedTable bi (cm == 3) = true ↔ if cm = 3 then bi.toNat ≤ 10 else bi.toNat ∉ [1, 2, 3, 5] := by
  revert bi cm
  decide

/-- The conditions of R113 in terms of the layer code, with the index as a range and ALLOWED spelt out. -/
theorem fieldsOk_layerIndex_iff {v lr : BitVec 2} {f : HdrFields} :
    fieldsOk v (layerIndex lr) f ↔
      v ≠ 1 ∧ lr ≠ 0 ∧ 1 ≤ f.bitrate.toNat ∧ f.bitrate.toNat ≤ 14 ∧ f.srate ≠ 3 ∧ f.emph ≠ 2 ∧
      (v = 3 ∧ lr = 2 → if f.cmode = 3 then f.bitrate.toNat ≤ 10 else f.bitrate.toNat ∉ [1, 2, 3, 5]) := by
  have range := bitrateIndex_range f.bitrate
  simp only [fieldsOk, ne_eq, layerIndex_eq_three, layerIndex_eq_one]
  constructor
  · rintro ⟨version, layer, index15, index0, rate, emphasis, allowed⟩
    have index := range.1 ⟨index15, index0⟩
    exact ⟨version, layer, index.1, index.2, rate, emphasis,
      fun ⟨mpeg1, layer2⟩ => (allowedTable_iff index).1 (allowed layer2 mpeg1)⟩
  · rintro ⟨version, layer, low, high, rate, emphasis, allowed⟩
    obtain ⟨index15, index0⟩ := range.2 ⟨low, high⟩
    exact ⟨version, layer, index15, index0, rate, emphasis,
      fun layer2 mpeg1 => (allowedTable_iff ⟨low, high⟩).2 (allowed ⟨mpeg1, layer2⟩)⟩

/-- Settles O7: DECODE succeeds exactly on fields that meet R113's conditions, and it fails in one way only. -/
theorem decodeOkExactlyWhen : Obligations.DecodeOkExactlyWhen := fun _ =>
  ⟨decodeWord_succeeds_iff.trans fieldsOk_layerIndex_iff, not_exists.trans decodeWord_error_iff.symm⟩

/-! ### The fields of the record -/

theorem lsfOf_eq_false (v : BitVec 2) : lsfOf v = false ↔ v = 3 := bne_eq_false_iff_eq

theorem layerIndex_add (lr : BitVec 2) : (layerIndex lr).toNat + lr.toNat = 3 := by
  revert lr
  decide

/-- The nine rates of SAMPLERATE (R31). -/
theorem sampleRateTable_mem {v si : BitVec 2} (hv : v ≠ 1) (hs : si ≠ 3) :
    sampleRateTable v si ∈ [11025, 12000, 8000, 22050, 24000, 16000, 44100, 48000, 32000] := by
  revert v si
  decide

theorem samplesTable_lt (lsf : Bool) (li : BitVec 2) : samplesTable lsf li < 2 ^ 11 := by
  revert lsf li
  decide

theorem assemble_samples (v li : BitVec 2) (f : HdrFields) :
    (assembleHeader v li f).samplesPerFrame.toNat = samplesTable (lsfOf v) li :=
  Nat.mod_eq_of_lt (samplesTable_lt ..)

/-- The bound is at most 16, so its five bits hold it (R109). -/
theorem intensityBound_jointStereo {cm : BitVec 2} (mx : BitVec 2) (h : cm = 1) :
    ∃ b, intensityBound cm mx = some b ∧ b.toNat = 4 + 4 * mx.toNat := by
  revert cm mx
  decide

theorem intensityBound_otherMode {cm : BitVec 2} (mx : BitVec 2) (h : cm ≠ 1) : intensityBound cm mx = none := if_neg h

theorem extract_beq_one (w : Word) (i : Nat) : (w.extractLsb' i 1 == 1) = w.getLsbD i :=
  (BitVec.getLsbD_eq_extractLsb' w i).symm

theorem extract_beq_zero (w : Word) (i : Nat) : (w.extractLsb' i 1 == 0) = true ↔ w.getLsbD i = false := by
  rw [BitVec.getLsbD_eq_extractLsb']
  generalize w.extractLsb' i 1 = x
  revert x
  decide

/-! ### The allocation table index -/

section AllocIndex
variable {v li : BitVec 2} (bps sr : Nat) (mono : Bool)

theorem allocIndex_otherLayer (layer : li ≠ 1) : allocIndex v li bps sr mono = none := if_neg layer

theorem allocIndex_lsfLayer2 (layer : li = 1) (version : v ≠ 3) : allocIndex v li bps sr mono = some 4 := by
  rw [allocIndex, if_pos layer, if_neg version]

theorem allocIndex_mpeg1Layer2 (layer : li = 1) (version : v = 3) :
    allocIndex v li bps sr mono = allocTable (ratePerChannel bps mono) sr := by
  rw [allocIndex, if_pos layer, if_pos version]

end AllocIndex

/-- ALLOC has an entry, at most 3, for every MPEG1 Layer2 header that ALLOWED allows: R36's derivation, over all cells. -/
theorem allocTable_covers_allowed {bi : BitVec 4} {si : BitVec 2} {mono : Bool} (h0 : bi ≠ 0) (hs : si ≠ 3)
    (allowed : allowedTable bi mono = true) :
    ∃ a, allocTable (ratePerChannel (bitrateBpsOf 3 1 bi) mono) (sampleRateTable 3 si) = some a ∧ a.toNat ≤ 3 := by
  revert bi si mono
  decide

section Decoded
variable {w : Word} {h : HeaderRec} (hd : decodeWord w = .ok h)
include hd

/-- The index is R112's function of the other fields of the record. -/
theorem decodeWord_allocIndex :
    h.allocationTableIndex = allocIndex h.version h.layer h.bitrateBps.toNat h.sampleRateHz.toNat (isMono h) := by
  obtain ⟨-, rfl⟩ := decodeWord_ok hd
  rw [assemble_bitrate, assemble_sampleRate]
  rfl

theorem decodeWord_allocTable (layer : h.layer = 1) (version : h.version = 3) :
    ∃ a, allocTable (ratePerChannel h.bitrateBps.toNat (isMono h)) h.sampleRateHz.toNat = some a ∧ a.toNat ≤ 3 := by
  obtain ⟨⟨-, -, -, index0, rate, -, allowed⟩, rfl⟩ := decodeWord_ok hd
  rw [assemble_bitrate, assemble_sampleRate]
  change layerIndex (layerField w) = 1 at layer
  change versionField w = 3 at version
  rw [layer, version]
  exact allocTable_covers_allowed index0 rate (allowed layer version)

end Decoded

/-- Settles O8: the record is the assembled one, each of whose numbers fits its width. -/
theorem decodedRecordFields : Obligations.DecodedRecordFields := by
  intro w h hd
  have alloc := decodeWord_allocIndex hd
  obtain ⟨⟨version, layer, index15, index0, rate, -, -⟩, rfl⟩ := decodeWord_ok hd
  have bps := assemble_bitrate (versionField w) (layerIndex (layerField w)) (fieldsOfWord w)
  obtain ⟨low, high⟩ := bitrateBpsOf_bounds (v := versionField w) layer index0 index15
  have hz := assemble_sampleRate (versionField w) (layerIndex (layerField w)) (fieldsOfWord w)
  refine ⟨rfl, lsfOf_eq_false _, layerIndex_add _, extract_beq_zero w 16, rfl, bps, bps ▸ low, bps ▸ high, hz,
    hz ▸ sampleRateTable_mem version rate, rfl, assemble_samples .., extract_beq_one w 8, rfl, rfl,
    intensityBound_jointStereo _, intensityBound_otherMode _, extract_beq_one w 3, extract_beq_one w 2, rfl, ?_⟩
  rw [alloc]
  simp only [allocIndex, ratePerChannel, isMono, beq_iff_eq, ite_not]

/-- Settles O11: by the three cases of R112, with ALLOC covering the first. -/
theorem allocationIndexOfLayer2 : Obligations.AllocationIndexOfLayer2 := by
  intro w h hd
  have index := decodeWord_allocIndex hd
  refine ⟨⟨fun absent layer => ?_, fun other => index.trans (allocIndex_otherLayer _ _ _ other)⟩,
    fun layer version => index.trans (allocIndex_lsfLayer2 _ _ _ layer version), fun layer version => ?_⟩
  · by_cases version : h.version = 3
    · obtain ⟨a, entry, -⟩ := decodeWord_allocTable hd layer version
      rw [index, allocIndex_mpeg1Layer2 _ _ _ layer version, entry] at absent
      cases absent
    · rw [index, allocIndex_lsfLayer2 _ _ _ layer version] at absent
      cases absent
  · obtain ⟨a, entry, le⟩ := decodeWord_allocTable hd layer version
    exact ⟨a, (index.trans (allocIndex_mpeg1Layer2 _ _ _ layer version)).trans entry, le, entry⟩

/-! ### DECODE alone -/

/-- DECODE fails with InvalidHeader and with nothing else (R113). -/
theorem decodeWord_error {w : Word} {k : FailureKind} (hd : decodeWord w = .error k) : k = .invalidHeader := by
  obtain ⟨-, ok⟩ | ⟨-, invalid⟩ := decodeWord_eq w
  · rw [ok] at hd
    cases hd
  · exact Except.error.inj (hd.symm.trans invalid)

theorem exec_decode_ok {s : State} {h : HeaderRec} (hd : decodeWord s.w = .ok h) :
    exec .decode s = .next (reportUnit (.header h) none { s with hc := h }) := by
  simp only [exec, execDecode, hd]

theorem exec_decode_error {s : State} {k : FailureKind} (hd : decodeWord s.w = .error k) :
    exec .decode s = .next (reportUnit .invalidHeader (some k) s) := by
  simp only [exec, execDecode, hd]

/-- Settles O12: the unit runs DECODE on `W` and reports its answer. -/
theorem decodeUnitWritesCandidate : Obligations.DecodeUnitWritesCandidate := by
  refine fun s => ⟨fun h hd => exec_decode_ok hd, fun k hd => ?_⟩
  obtain rfl := decodeWord_error hd
  exact ⟨rfl, exec_decode_error hd⟩

end Sys2Proof.Machine
end

section
/-! What FSIZE computes (R130 to R135): the formula on every decoded header, the bounds that its tables give, and the register
it writes. -/

namespace Sys2Proof.Machine

/-! ### The tables of the formula -/

/-- COEFF on the layers of a header (R33). -/
theorem coeffTable_eq {li : BitVec 2} (lsf : Bool) (layer : li ≠ 3) :
    coeffTable lsf li = if li = 0 then 12 else if li = 2 ∧ lsf = true then 72 else 144 := by
  revert lsf li
  decide

/-- SLOT on the layers of a header (R34). -/
theorem slotTable_eq {li : BitVec 2} (layer : li ≠ 3) : slotTable li = if li = 0 then 4 else 1 := by
  revert li
  decide

/-- The product bound of R133, over every cell of BITRATE: the highest coefficient and the highest rate do not meet, so it is
not the product of their bounds. -/
theorem coeff_mul_bitrate_le (v li : BitVec 2) (bi : BitVec 4) :
    coeffTable (lsfOf v) li * bitrateBpsOf v li bi ≤ 55296000 := by
  revert v li bi
  decide

theorem sampleRateTable_pos {v si : BitVec 2} (hv : v ≠ 1) (hs : si ≠ 3) : 0 < sampleRateTable v si := by
  revert v si
  decide

theorem slotTable_dvd_frameSizeFormula (h : HeaderRec) : slotTable h.layer ∣ frameSizeFormula h :=
  Nat.dvd_mul_left _ _

/-! ### The size of a decoded header -/

section DecodedSize
variable {w : Word} {h : HeaderRec} (hd : decodeWord w = .ok h)
include hd

theorem decodeWord_layer_ne_three : h.layer ≠ 3 := by
  obtain ⟨⟨-, layer, -⟩, rfl⟩ := decodeWord_ok hd
  exact layer

theorem decodeWord_frameSize : frameSize h = frameSizeFormula h :=
  frameSize_valid (decodeWord_valid hd)

theorem decodeWord_frameSize_bounds : 24 ≤ frameSize h ∧ frameSize h ≤ 2881 := by
  rw [decodeWord_frameSize hd]
  exact frameSizeFormula_bounds (decodeWord_valid hd)

/-- The operands of the division: the product fits 26 bits and the divisor is not 0 (R133). -/
theorem decodeWord_division_bounds :
    coeffTable h.lsf h.layer * h.bitrateBps.toNat ≤ 55296000 ∧ 0 < h.sampleRateHz.toNat := by
  obtain ⟨⟨version, -, -, -, rate, -, -⟩, rfl⟩ := decodeWord_ok hd
  rw [assemble_bitrate, assemble_sampleRate]
  exact ⟨coeff_mul_bitrate_le .., sampleRateTable_pos version rate⟩

end DecodedSize

/-- Settles O13: the size is the formula, whose two tables have these values on the three layers. -/
theorem frameSizeOfDecodedHeader : Obligations.FrameSizeOfDecodedHeader := by
  intro w h hd
  have layer := decodeWord_layer_ne_three hd
  rw [decodeWord_frameSize hd, frameSizeFormula, coeffTable_eq _ layer, slotTable_eq layer]

/-- Settles O14: by the bounds over the tables. The extremes are R134's: MPEG2 Layer3 at 8000 bit/s and 24000 Hz, and padded
MPEG2.5 Layer2 at 160000 bit/s and 8000 Hz. -/
theorem frameSizeRange : Obligations.FrameSizeRange := by
  refine ⟨fun w h hd => ?_, ⟨0xFFF31400, _, rfl, rfl⟩, ⟨0xFFE5EA00, _, rfl, rfl⟩⟩
  obtain ⟨low, high⟩ := decodeWord_frameSize_bounds hd
  exact ⟨low, high, decodeWord_division_bounds hd⟩

/-- Settles O15: positive by R134's minimum, and a multiple because the slot size is the last factor of the formula. -/
theorem frameSizeIsSlotMultiple : Obligations.FrameSizeIsSlotMultiple := by
  intro w h hd
  refine ⟨Nat.lt_of_lt_of_le (by decide) (decodeWord_frameSize_bounds hd).1, ?_⟩
  rw [← slotTable_eq (decodeWord_layer_ne_three hd), decodeWord_frameSize hd]
  exact slotTable_dvd_frameSizeFormula h

/-! ### FSIZE alone -/

/-- Twelve bits hold the size of every record: by R134 on a valid one, by the width of the free value on any other (log 8). -/
theorem frameSize_lt (h : HeaderRec) : frameSize h < 2 ^ 12 := by
  by_cases hv : validRecord h = true
  · rw [frameSize_valid hv]
    exact Nat.lt_of_le_of_lt (frameSizeFormula_bounds hv).2 (by decide)
  · rw [frameSize, if_neg hv]
    exact (Config.fsizeOfInvalid h).isLt

/-- On every record the unit writes a register that holds the whole size, and the two ghosts. -/
theorem exec_fsize (s : State) :
    ∃ b : BitVec 12, b.toNat = frameSize s.hc ∧
      exec .fsize s = .next { s with fsize := b, unitResult := some (.size b.toNat), lastFailure := none } := by
  have exact_size : (BitVec.ofNat 12 (frameSize s.hc)).toNat = frameSize s.hc :=
    Nat.mod_eq_of_lt (frameSize_lt s.hc)
  refine ⟨BitVec.ofNat 12 (frameSize s.hc), exact_size, ?_⟩
  rw [exact_size]
  rfl

/-- Settles O16: the register the unit writes holds the size, which on a valid record is the formula. -/
theorem fsizeUnitWritesFsize : Obligations.FsizeUnitWritesFsize := by
  intro s
  obtain ⟨b, size, written⟩ := exec_fsize s
  exact ⟨fun hv => ⟨b, size.trans (frameSize_valid hv), written⟩, fun _ => ⟨b, written⟩⟩

end Sys2Proof.Machine
end

section
/-! MATCH is equality of five components (R141): what it answers on headers, why that is an equivalence (R143), and what the
unit writes (R140). -/

namespace Sys2Proof.Machine

/-! ### The five components -/

/-- What MATCH compares of a header (R141). -/
def matchKey (h : HeaderRec) : BitVec 2 × BitVec 2 × BitVec 16 × Bool × BitVec 2 :=
  (h.version, h.layer, h.sampleRateHz, isMono h, h.emphasis)

theorem headersMatch_iff_matchKey {a b : HeaderRec} : headersMatch a b = true ↔ matchKey a = matchKey b := by
  simp only [headersMatch, matchKey, Bool.and_eq_true, beq_iff_eq, Prod.mk.injEq, and_assoc]

theorem matchResult_iff_matchKey {a b : HeaderRec} (ha : validRecord a = true) (hb : validRecord b = true) :
    matchResult a b = true ↔ matchKey a = matchKey b := by
  rw [matchResult_valid ha hb, headersMatch_iff_matchKey]

/-- R27: a header is mono when its channel mode is SingleChannel, code 3. -/
theorem isMono_eq_iff {a b : HeaderRec} : isMono a = isMono b ↔ (a.channelMode = 3 ↔ b.channelMode = 3) := by
  rw [Bool.eq_iff_iff, isMono, isMono, beq_iff_eq, beq_iff_eq]

/-- Settles O17: a decoded header is a valid record, and on valid records MATCH compares the five components. -/
theorem matchPredicate : Obligations.MatchPredicate := by
  intro wa wb a b ha hb
  rw [matchResult_iff_matchKey (decodeWord_valid ha) (decodeWord_valid hb)]
  simp only [matchKey, Prod.mk.injEq, isMono_eq_iff]

/-! ### The equivalence -/

/-- The rows of SAMPLERATE have no rate in common (R31). -/
theorem version_eq_of_sampleRateTable_eq {v v' si si' : BitVec 2} (hv : v ≠ 1) (hs : si ≠ 3)
    (hv' : v' ≠ 1) (hs' : si' ≠ 3) (he : sampleRateTable v si = sampleRateTable v' si') : v = v' := by
  revert v v' si si'
  decide

theorem validRecord_sampleRate {h : HeaderRec} (hv : validRecord h = true) :
    ∃ si : BitVec 2, si ≠ 3 ∧ h.version ≠ 1 ∧ h.sampleRateHz.toNat = sampleRateTable h.version si := by
  obtain ⟨f, ⟨version, -, -, -, rate, -, -⟩, he⟩ := validRecord_assembled hv
  refine ⟨f.srate, rate, version, ?_⟩
  rw [congrArg HeaderRec.sampleRateHz he, assemble_sampleRate]

theorem version_eq_of_sampleRateHz_eq {a b : HeaderRec} (ha : validRecord a = true) (hb : validRecord b = true)
    (he : a.sampleRateHz = b.sampleRateHz) : a.version = b.version := by
  obtain ⟨si, hs, hv, rate⟩ := validRecord_sampleRate ha
  obtain ⟨si', hs', hv', rate'⟩ := validRecord_sampleRate hb
  exact version_eq_of_sampleRateTable_eq hv hs hv' hs' (rate.symm.trans ((congrArg _ he).trans rate'))

/-- Settles O18: MATCH inherits the equivalence from the equality of keys. -/
theorem matchIsEquivalence : Obligations.MatchIsEquivalence := by
  refine ⟨fun a ha => ?refl, fun a b ha hb => ?symm, fun a b c ha hb hc hab hbc => ?trans,
    fun _ _ => version_eq_of_sampleRateHz_eq⟩
  case refl => exact (matchResult_iff_matchKey ha ha).2 rfl
  case symm => rw [Bool.eq_iff_iff, matchResult_iff_matchKey ha hb, matchResult_iff_matchKey hb ha, eq_comm]
  case trans =>
    rw [matchResult_iff_matchKey ha hb] at hab
    rw [matchResult_iff_matchKey hb hc] at hbc
    exact (matchResult_iff_matchKey ha hc).2 (hab.trans hbc)

/-! ### MATCH alone -/

/-- In every state the unit writes the two ghosts only. -/
theorem exec_matchHeaders (s : State) :
    exec .matchHeaders s = .next { s with unitResult := some (.bit (matchRegisters s)), lastFailure := none } := rfl

theorem matchRegisters_valid {s : State} (hc : validRecord s.hc = true) (hb : validRecord s.hb = true)
    (baseline : s.hbValid = true) : matchRegisters s = headersMatch s.hc s.hb := by
  rw [matchRegisters, if_pos baseline, matchResult_valid hc hb]

/-- Settles O19: the bit is that of MATCH on the registers, which with a valid baseline is the predicate of R141. -/
theorem matchUnitWritesNothing : Obligations.MatchUnitWritesNothing := by
  refine fun s => ⟨fun hc hb baseline => ?_, matchRegisters s, exec_matchHeaders s⟩
  rw [exec_matchHeaders, matchRegisters_valid hc hb baseline]

end Sys2Proof.Machine
end

section
/-! What SKIPTAG answers (R145 to R152): the length of the row that the ten bytes decode to, from any offset, and what the
unit alone writes. -/

namespace Sys2Proof.Machine

/-! ### The answer by the row -/

theorem tagInstr_inj {footer footer' : Bool} {t t' : TagFields} (h : tagInstr footer t = tagInstr footer' t') :
    footer = footer' ∧ t = t' := by
  cases footer <;> cases footer' <;> cases h
  all_goals exact ⟨rfl, rfl⟩

section Answer
variable {src : Memory} {off : Nat}

/-- A Short read is no tag (R147). -/
theorem skipTag_of_short (read : memRead src off 10 = .short) : skipTag src off = off := by
  rw [skipTag, read]
  rfl

/-- Ten bytes that are no tag row have no signature, so the offset stays (R148). -/
theorem skipTag_of_no_row {bs : List Byte} {e : DecodeReject} (read : memRead src off 10 = .bytes bs)
    (row : decode .id3v2Hdr80 bs = .error e) : skipTag src off = off := by
  obtain ⟨t0, t1, t2, t3, t4, t5, t6, t7, t8, t9, rfl⟩ := memRead_ten read
  by_cases signature : t0 = 0x49 ∧ t1 = 0x44 ∧ t2 = 0x33
  · obtain ⟨rfl, rfl, rfl⟩ := signature
    rw [decode_signed] at row
    cases row
  · rw [skipTag, read, skipTagResult_unsigned off signature]

/-- A tag row is skipped by its length (R146). -/
theorem skipTag_of_row {bs : List Byte} {footer : Bool} {t : TagFields} (read : memRead src off 10 = .bytes bs)
    (row : decode .id3v2Hdr80 bs = .ok (tagInstr footer t)) : skipTag src off = off + tagFieldsLength footer t := by
  obtain ⟨t3, t4, t5, t6, t7, t8, t9, rfl, same⟩ := decode_tag_ok row
  obtain ⟨rfl, rfl⟩ := tagInstr_inj same
  rw [skipTag, read, skipTagResult_signed]

/-- The pseudocode of R145 on the bytes themselves, with the footer flag as bit 4 of byte 5 (R150). -/
theorem skipTag_of_bytes {t0 t1 t2 t3 t4 t5 t6 t7 t8 t9 : Byte}
    (read : memRead src off 10 = .bytes [t0, t1, t2, t3, t4, t5, t6, t7, t8, t9]) :
    skipTag src off =
      if t0 = 0x49 ∧ t1 = 0x44 ∧ t2 = 0x33 then
        off + 10 + syncsafe t6 t7 t8 t9 + (if t5.getLsbD 4 = true then 10 else 0)
      else off := by
  rw [skipTag, read]
  split
  case isTrue signature =>
    obtain ⟨rfl, rfl, rfl⟩ := signature
    rw [skipTagResult_signed, Nat.add_assoc, Nat.add_assoc, ← Nat.add_assoc 10]
    rfl
  case isFalse signature => exact skipTagResult_unsigned off signature

end Answer

/-- Settles O21: case by case on the read and the row its bytes decode to, and by the longest row (R152). -/
theorem skipTagFromZero : Obligations.SkipTagFromZero := by
  intro src
  refine ⟨fun short => ?short, fun _ _ => skipTag_of_no_row, fun _ t read row => ?noFooter, fun _ t read row => ?footer,
    skipTag_le src⟩
  case short => exact skipTag_of_short (if_neg (Nat.not_le_of_lt short))
  case noFooter => exact (skipTag_of_row (footer := false) read row).trans (Nat.zero_add _)
  case footer => exact (skipTag_of_row (footer := true) read row).trans (Nat.zero_add _)

/-! ### SKIPTAG alone -/

/-- On every answer of the source the unit writes the cursor, `T`, the read port and the ghosts. -/
theorem exec_skiptag (s : State) :
    exec .skiptag s =
      .next { s with
        pc := BitVec.ofNat 32 (skipTag s.src s.pc.toNat)
        t := tagLatched (memRead s.src s.pc.toNat 10) s.t
        port := tagPort s.pc (memRead s.src s.pc.toNat 10)
        reads := s.reads + 1
        unitResult := some (.offset (skipTag s.src s.pc.toNat))
        lastFailure := probeFailure (memRead s.src s.pc.toNat 10) } := rfl

/-- Settles O22: the two answers of the source; after a Short read the cursor is written with its own value. -/
theorem skiptagUnitWritesCursor : Obligations.SkiptagUnitWritesCursor := by
  refine fun s => ⟨fun read => ?short, fun t0 t1 t2 t3 t4 t5 t6 t7 t8 t9 read => ?bytes⟩
  case short =>
    have unmoved := skipTag_of_short read
    refine ⟨unmoved, ?_⟩
    rw [exec_skiptag, unmoved, read, BitVec.ofNat_toNat, BitVec.setWidth_eq]
    rfl
  case bytes =>
    refine ⟨skipTag_of_bytes read, ?_⟩
    rw [exec_skiptag, read]
    rfl

end Sys2Proof.Machine
end

section
/-! What FINDFRAME answers (R155 to R165): at the first header of its offsets MATCH decides, every answer comes from a header
or from exhaustion, and no scan makes more attempts than its policy has offsets. -/

namespace Sys2Proof.Machine

/-! ### The candidate test -/

theorem isCandidate_iff_masks (b0 b1 b2 : Byte) :
    isCandidate b0 b1 b2 = true ↔ b0 = 0xFF ∧ b1 &&& 0xE0 = 0xE0 ∧ b2 &&& 0xF0 ≠ 0xF0 := by
  simp only [isCandidate, Bool.and_eq_true, beq_iff_eq, bne_iff_ne, and_assoc]

/-- Settles O5: the masks are the tests of the definition, and the fields of the word say the same. -/
theorem candidateIsSyncAndIndex : Obligations.CandidateIsSyncAndIndex := fun b0 b1 b2 b3 =>
  ⟨isCandidate_iff_masks b0 b1 b2, isCandidate_fields b0 b1 b2 b3⟩

/-! ### The first header decides -/

theorem ScanRun.enter_n (off : Int) : (ScanRun.enter off).n = 0 := rfl

/-- Settles O27: the scan loop from its entry, where all 16384 offsets are left. -/
theorem forwardScanTakesFirstHeader : Obligations.ForwardScanTakesFirstHeader := by
  intro p src off base
  obtain ⟨fuel, fuel_eq, scan⟩ := findFrame_fuel p src off false base
  rw [scan]
  refine ⟨fun k h hk here before => ?first, fun nowhere => ?none⟩
  case first =>
    exact scanLoop_forward_found k fuel (.enter off) (by omega) (by rwa [ScanRun.enter_n, Nat.zero_add]) here before
  case none =>
    exact scanLoop_forward_none fuel (.enter off) (by rw [ScanRun.enter_n]; decide) fun j hj =>
      nowhere j (by rwa [ScanRun.enter_n, Nat.zero_add] at hj)

section ExactScan
variable {p : Params} {src : Memory} {off : Int} {base : Option HeaderRec}

/-- A header decides when no attempt before it was a hit or ended the scan. -/
theorem findFrame_exact_found {k : Nat} {h : HeaderRec} (hk : k < 7)
    (here : HeaderAt src (off + probePosition p.probeMode 0 k) h)
    (before : ∀ j : Nat, j < k → NoHeaderAt src (off + probePosition p.probeMode 0 j) ∧ ¬ LastProbe p src off j) :
    findFrame p src off true base = atFirstHit base h (off + probePosition p.probeMode 0 k) := by
  obtain ⟨fuel, fuel_eq, scan⟩ := findFrame_fuel p src off true base
  simp only [probePosition_shift] at here before ⊢
  rw [scan]
  have found := scanLoop_exact_found (src := src) (base := base) (h := h) k fuel 0 (.enter off) (by omega) (by omega)
    (atProbe_enter p off)
  rw [Nat.zero_add] at found
  exact found here fun j _ hj => before j hj

/-- No header up to the attempt that ends the scan exhausts it. -/
theorem findFrame_exact_none
    (nowhere : ∀ k : Nat, k < 7 → (∀ j : Nat, j < k → ¬ LastProbe p src off j) →
      NoHeaderAt src (off + probePosition p.probeMode 0 k)) :
    findFrame p src off true base = .error .scanExhausted := by
  obtain ⟨fuel, fuel_eq, scan⟩ := findFrame_fuel p src off true base
  simp only [probePosition_shift] at nowhere
  rw [scan]
  exact scanLoop_exact_none fuel 0 _ (atProbe_enter p off) (by decide) fun j _ hj going =>
    nowhere j (by omega) fun l => going l (Nat.zero_le l)

theorem not_lastProbe_of_failedAttempt {i : Nat} (policy : p.eosPolicy = .failedAttempt) (hi : i < 6) :
    ¬ LastProbe p src off i := by
  rintro (seventh | ⟨stop, -⟩)
  · omega
  · rw [policy] at stop
    cases stop

theorem not_lastProbe_of_not_short {i : Nat} (hi : i < 6)
    (read : ¬ ShortAt src (off + probePosition p.probeMode 0 i)) : ¬ LastProbe p src off i := by
  rintro (seventh | ⟨-, short⟩)
  · omega
  · rw [probePosition_shift] at read
    exact read short

end ExactScan

/-- Settles O28: under `failed_attempt` no attempt before the seventh ends the scan. -/
theorem exactScanTakesFirstHeader : Obligations.ExactScanTakesFirstHeader := by
  refine ⟨by decide, fun p src off base policy => ⟨fun k h hk here before => ?first, fun nowhere => ?none⟩⟩
  case first =>
    exact findFrame_exact_found hk here fun j hj => ⟨before j hj, not_lastProbe_of_failedAttempt policy (by omega)⟩
  case none => exact findFrame_exact_none fun k hk _ => nowhere k hk

theorem scanLoop_forward_params (p p' : Params) (src : Memory) (base : Option HeaderRec) (fuel : Nat) (r : ScanRun) :
    scanLoop p src false base fuel r = scanLoop p' src false base fuel r := by
  induction fuel generalizing r with
  | zero => rfl
  | succ fuel ih =>
    by_cases hit : ∃ w h, attemptAt src r.cursor = .hit w h
    · obtain ⟨w, h, hit⟩ := hit
      rw [scanLoop_hit hit, scanLoop_hit hit]
    · have miss : ∀ w h, attemptAt src r.cursor ≠ .hit w h := fun w h e => hit ⟨w, h, e⟩
      simp only [scanLoop_forward_miss miss, ih]

theorem findFrame_forward_params (p p' : Params) (src : Memory) (off : Int) (base : Option HeaderRec) :
    findFrame p src off false base = findFrame p' src off false base :=
  congrArg Prod.fst (scanLoop_forward_params p p' src base scanFuel (.enter off))

/-- Settles O29: the attempt that ends the scan is the Short read, and the forward scan asks no parameter. -/
theorem stopAtOnceEndsExactScan : Obligations.StopAtOnceEndsExactScan := by
  refine ⟨fun p src off base policy =>
      ⟨fun k hk short before => ?short, fun k h hk here before => ?first, fun nowhere => ?none⟩,
    findFrame_forward_params⟩
  case short =>
    have last : LastProbe p src off k := .inr ⟨policy, by rwa [probePosition_shift] at short⟩
    refine findFrame_exact_none fun j _ going => ?_
    rcases Nat.lt_trichotomy j k with hj | rfl | hj
    · exact before j hj
    · exact noHeader_of_short short.2
    · exact absurd last (going k hj)
  case first =>
    refine findFrame_exact_found hk here fun j hj => ?_
    obtain ⟨noHeader, read⟩ := before j hj
    exact ⟨noHeader, not_lastProbe_of_not_short (by omega) read⟩
  case none => exact findFrame_exact_none fun k hk _ => nowhere k hk

/-! ### One turn of the loop -/

/-- How many attempts are left to a scan under its policy (R165). -/
def ScanRun.attemptsLeft (exact : Bool) (r : ScanRun) : Nat := if exact then 8 - r.step else 16384 - r.n

/-- What one attempt, with the transfer after it, keeps of a scan's registers. -/
structure OneAttempt (exact : Bool) (r r' : ScanRun) : Prop where
  origin : r'.origin = r.origin
  step : exact = false → r'.step = r.step
  reads : r'.reads ≤ r.reads + 1

/-- Where a turn of the loop leads: to the answer at a header, to exhaustion, or on to the next attempt. -/
inductive ScanTurn (p : Params) (src : Memory) (exact : Bool) (base : Option HeaderRec) (fuel : Nat) (r : ScanRun) :
    ScanResult × ScanRun → Prop
  | hit {h : HeaderRec} {r' : ScanRun} (here : HeaderAt src r.cursor h) (one : OneAttempt exact r r') :
      ScanTurn p src exact base fuel r (atFirstHit base h r.cursor, r')
  | exhausted {r' : ScanRun} (one : OneAttempt exact r r') : ScanTurn p src exact base fuel r (.error .scanExhausted, r')
  | next {r' : ScanRun} (one : OneAttempt exact r r') (more : 0 < r'.attemptsLeft exact)
      (left : r'.attemptsLeft exact + 1 = r.attemptsLeft exact) :
      ScanTurn p src exact base fuel r (scanLoop p src exact base fuel r')

theorem oneAttempt_record (exact : Bool) (a : Attempt) (r : ScanRun) : OneAttempt exact r (r.record a) := by
  obtain ⟨-, origin, -, step, reads⟩ := record_counters a r
  exact ⟨origin, fun _ => step, reads⟩

section Loop
variable {p : Params} {src : Memory} {exact : Bool} {base : Option HeaderRec}

theorem scanLoop_turn (fuel : Nat) (r : ScanRun) :
    ScanTurn p src exact base fuel r (scanLoop p src exact base (fuel + 1) r) := by
  by_cases hit : ∃ w h, attemptAt src r.cursor = .hit w h
  · obtain ⟨w, h, hit⟩ := hit
    rw [scanLoop_hit hit]
    exact .hit (headerAt_of_hit hit) (oneAttempt_record ..)
  · have miss : ∀ w h, attemptAt src r.cursor ≠ .hit w h := fun w h e => hit ⟨w, h, e⟩
    have one := oneAttempt_record exact (attemptAt src r.cursor) r
    obtain ⟨-, -, n, step, -⟩ := record_counters (attemptAt src r.cursor) r
    cases exact
    · rw [scanLoop_forward_miss miss]
      dsimp only
      rw [n, maxScanRange_eq]
      split
      case isTrue => exact .exhausted ⟨one.origin, one.step, one.reads⟩
      case isFalse more =>
        have left : ∀ r' : ScanRun, r'.attemptsLeft false = 16384 - r'.n := fun _ => rfl
        exact .next ⟨one.origin, one.step, one.reads⟩ (by rw [left]; dsimp only; omega) (by rw [left, left]; dsimp only; omega)
    · rw [scanLoop_exact_miss miss]
      dsimp only
      rw [step]
      split
      case isTrue => exact .exhausted one
      case isFalse going =>
        rw [Bool.or_eq_true, not_or, decide_eq_true_eq, Config.exactTolerance] at going
        have left : ∀ r' : ScanRun, r'.attemptsLeft true = 8 - r'.step := fun _ => rfl
        exact .next ⟨one.origin, nofun, one.reads⟩ (by rw [left]; dsimp only; omega) (by rw [left, left]; dsimp only; omega)

/-- Every answer comes from a header or from exhaustion. -/
theorem scanLoop_answer (fuel : Nat) (r : ScanRun) :
    (∃ c h, HeaderAt src c h ∧ (scanLoop p src exact base fuel r).1 = atFirstHit base h c) ∨
    (scanLoop p src exact base fuel r).1 = .error .scanExhausted := by
  induction fuel generalizing r with
  | zero => exact .inr rfl
  | succ fuel ih =>
    have turn := scanLoop_turn (p := p) (src := src) (exact := exact) (base := base) fuel r
    generalize scanLoop p src exact base (fuel + 1) r = x at turn ⊢
    cases turn with
    | hit here => exact .inl ⟨_, _, here, rfl⟩
    | exhausted => exact .inr rfl
    | next => exact ih _

/-- What a scan keeps from its entry, and its reads against the attempts it had left. -/
theorem scanLoop_keeps (fuel : Nat) (r : ScanRun) (more : 0 < r.attemptsLeft exact) :
    (scanLoop p src exact base fuel r).2.origin = r.origin ∧
    (exact = false → (scanLoop p src exact base fuel r).2.step = r.step) ∧
    (scanLoop p src exact base fuel r).2.reads ≤ r.reads + r.attemptsLeft exact := by
  induction fuel generalizing r with
  | zero => exact ⟨rfl, fun _ => rfl, Nat.le_add_right ..⟩
  | succ fuel ih =>
    have turn := scanLoop_turn (p := p) (src := src) (exact := exact) (base := base) fuel r
    generalize scanLoop p src exact base (fuel + 1) r = x at turn ⊢
    cases turn with
    | hit _ one => exact ⟨one.origin, one.step, one.reads.trans (Nat.add_le_add_left more _)⟩
    | exhausted one => exact ⟨one.origin, one.step, one.reads.trans (Nat.add_le_add_left more _)⟩
    | next one more' left =>
      obtain ⟨origin, step, reads⟩ := ih _ more'
      have read := one.reads
      exact ⟨origin.trans one.origin, fun forward => (step forward).trans (one.step forward), by omega⟩

end Loop

/-! ### The meaning of an answer, and the reads -/

section Scan
variable {p : Params} {src : Memory} {off : Int} {exact : Bool} {base : Option HeaderRec}

theorem findFrame_answer :
    (∃ c h, HeaderAt src c h ∧ findFrame p src off exact base = atFirstHit base h c) ∨
    findFrame p src off exact base = .error .scanExhausted :=
  scanLoop_answer scanFuel (.enter off)

theorem atFirstHit_ok {h h' : HeaderRec} {c c' : Int} (found : atFirstHit base h c = .ok (h', c')) :
    (h' = h ∧ c' = c) ∧ ∀ hb, base = some hb → matchResult h hb = true := by
  cases base with
  | none =>
    cases found
    exact ⟨⟨rfl, rfl⟩, nofun⟩
  | some hb =>
    rw [atFirstHit] at found
    split at found
    case isTrue same =>
      cases found
      exact ⟨⟨rfl, rfl⟩, fun _ hb => Option.some.inj hb ▸ same⟩
    case isFalse => cases found

theorem atFirstHit_error {h : HeaderRec} {c : Int} {k : FailureKind} (mismatch : atFirstHit base h c = .error k) :
    k = .chainMismatch ∧ base ≠ none := by
  cases base with
  | none => cases mismatch
  | some hb =>
    rw [atFirstHit] at mismatch
    split at mismatch <;> cases mismatch
    exact ⟨rfl, nofun⟩

end Scan

/-- Settles O30: an answer is that of MATCH at a header, which is a valid record, or exhaustion. -/
theorem scanResultMeaning : Obligations.ScanResultMeaning := by
  intro p src off exact base
  obtain ⟨c, h, here, answer⟩ | answer :=
    findFrame_answer (p := p) (src := src) (off := off) (exact := exact) (base := base)
  all_goals rw [answer]
  case inl =>
    refine ⟨fun h' c' found => ?found, fun k mismatch => .inr (atFirstHit_error mismatch)⟩
    obtain ⟨⟨rfl, rfl⟩, matched⟩ := atFirstHit_ok found
    have valid := headerAt_valid here
    exact ⟨here, valid, fun hb is_base hb_valid => (matchResult_valid valid hb_valid).symm.trans (matched hb is_base)⟩
  case inr => exact ⟨nofun, fun k exhausted => .inl (Except.error.inj exhausted).symm⟩

theorem attemptsLeft_enter (exact : Bool) (off : Int) :
    (ScanRun.enter off).attemptsLeft exact = if exact then 7 else 16384 := by cases exact <;> rfl

/-- R155: what a call keeps from its entry; R165: how many reads it makes. -/
theorem scanRun_keeps (p : Params) (src : Memory) (off : Int) (exact : Bool) (base : Option HeaderRec) :
    (scanRun p src off exact base).2.origin = off ∧
    (exact = false → (scanRun p src off exact base).2.step = 1) ∧
    (scanRun p src off exact base).2.reads ≤ if exact then 7 else 16384 := by
  obtain ⟨fuel, -, run⟩ := scanRun_fuel p src off exact base
  have left := attemptsLeft_enter exact off
  obtain ⟨origin, step, reads⟩ :=
    scanLoop_keeps (p := p) (src := src) (base := base) fuel (.enter off) (by rw [left]; cases exact <;> decide)
  rw [run]
  exact ⟨origin, step, reads.trans_eq ((Nat.zero_add _).trans left)⟩

/-- Settles O31: a scan enters with all the attempts of its policy left, and each makes at most one read. -/
theorem scanReadBounds : Obligations.ScanReadBounds := fun p src off base =>
  ⟨(scanRun_keeps p src off false base).2.2, (scanRun_keeps p src off true base).2.2⟩

end Sys2Proof.Machine
end

section
/-! What FINDFRAME alone leaves in the registers (R155, R38): each answer fixes the word, the header, the cursor and the
counter of its scan. -/

namespace Sys2Proof.Machine

/-! ### What a call leaves, by its answer -/

section Leaves
variable {src : Memory} {r : ScanRun} {x : ScanResult × ScanRun}

theorem scanLeaves_found {h : HeaderRec} {c : Int} (leaves : ScanLeaves src r x) (found : x.1 = .ok (h, c)) :
    x.2.cursor = c ∧ x.2.hc = some h ∧ ∃ w, WordAt src c w ∧ x.2.w = some w := by
  rwa [ScanLeaves, found] at leaves

theorem scanLeaves_exhausted (leaves : ScanLeaves src r x) (exhausted : x.1 = .error .scanExhausted) :
    x.2.hc = r.hc ∧ (x.2.w = r.w ∨ ∃ c w, WordAt src c w ∧ x.2.w = some w) := by
  rw [ScanLeaves, exhausted] at leaves
  obtain ⟨⟨⟩, -⟩ | ⟨-, hc, w⟩ := leaves
  exact ⟨hc, w⟩

theorem scanLeaves_mismatch (leaves : ScanLeaves src r x) (mismatch : x.1 = .error .chainMismatch) :
    ∃ w h, WordAt src x.2.cursor w ∧ decodeWord w = .ok h ∧ x.2.hc = some h ∧ x.2.w = some w := by
  rw [ScanLeaves, mismatch] at leaves
  obtain ⟨-, left⟩ | ⟨⟨⟩, -⟩ := leaves
  exact left

end Leaves

section Call
variable {p : Params} {src : Memory} {off : Int} {base : Option HeaderRec}

theorem scanRun_leaves (exact : Bool) : ScanLeaves src (.enter off) (scanRun p src off exact base) := by
  obtain ⟨fuel, -, run⟩ := scanRun_fuel p src off exact base
  rw [run]
  exact scanLoop_leaves fuel _

theorem scanRun_exact_n : (scanRun p src off true base).2.n = 0 := by
  obtain ⟨fuel, -, run⟩ := scanRun_fuel p src off true base
  rw [run]
  exact scanLoop_exact_n fuel _

theorem scanRun_exact_probe : ∃ k, k ≤ 6 ∧ AtProbe p off k (scanRun p src off true base).2 := by
  obtain ⟨fuel, fuel_eq, run⟩ := scanRun_fuel p src off true base
  rw [run]
  exact scanLoop_exact_probe fuel 0 _ (atProbe_enter p off) (by decide) (by omega)

theorem scanRun_exact_exhausted (policy : p.eosPolicy = .failedAttempt)
    (exhausted : (scanRun p src off true base).1 = .error .scanExhausted) :
    AtProbe p off 6 (scanRun p src off true base).2 := by
  obtain ⟨fuel, fuel_eq, run⟩ := scanRun_fuel p src off true base
  rw [run] at exhausted ⊢
  exact scanLoop_exact_exhausted policy fuel 0 _ (atProbe_enter p off) (by decide) (by omega) exhausted

theorem scanRun_forward_header (header : (scanRun p src off false base).1 ≠ .error .scanExhausted) :
    (scanRun p src off false base).2.n < 16384 ∧
    (scanRun p src off false base).2.cursor = off + (scanRun p src off false base).2.n := by
  obtain ⟨fuel, -, run⟩ := scanRun_fuel p src off false base
  rw [run] at header ⊢
  obtain ⟨n, cursor⟩ := scanLoop_forward_cursor fuel (.enter off) (by rw [ScanRun.enter_n]; decide) header
  exact ⟨n, by rwa [ScanRun.enter_n, Int.natCast_zero, Int.add_zero] at cursor⟩

theorem scanRun_forward_exhausted (exhausted : (scanRun p src off false base).1 = .error .scanExhausted) :
    (scanRun p src off false base).2.n = 16384 ∧ (scanRun p src off false base).2.cursor = off + 16383 := by
  obtain ⟨fuel, fuel_eq, run⟩ := scanRun_fuel p src off false base
  rw [run] at exhausted ⊢
  obtain ⟨n, cursor⟩ :=
    scanLoop_forward_exhausted fuel (.enter off) (by rw [ScanRun.enter_n]; decide) (by rw [ScanRun.enter_n]; omega) exhausted
  exact ⟨n, by rwa [ScanRun.enter_n, Int.natCast_zero, Int.add_zero] at cursor⟩

end Call

/-! ### FINDFRAME alone -/

/-- The scan that the unit runs on the operands in the registers (log 11). -/
def unitScan (s : State) : ScanResult × ScanRun := scanRun s.params s.src s.pc.toNat s.exact (baseline s)

/-- The state the unit leaves, register by register. -/
def afterFindframe (s : State) : State :=
  { s with
    pc := BitVec.ofInt 32 (unitScan s).2.cursor
    origin := BitVec.ofInt 32 (unitScan s).2.origin
    n := BitVec.ofNat 15 (unitScan s).2.n
    stepReg := BitVec.ofNat 3 (unitScan s).2.step
    w := (unitScan s).2.w.getD s.w
    hc := (unitScan s).2.hc.getD s.hc
    port := (unitScan s).2.port
    reads := s.reads + (unitScan s).2.reads
    unitResult := some (scanReport (unitScan s).1)
    lastFailure := scanFailure (unitScan s).1 }

theorem exec_findframe (s : State) : exec .findframe s = .next (afterFindframe s) := rfl

section Unit
variable {s : State}

theorem unitScan_exact (exact : s.exact = true) :
    unitScan s = scanRun s.params s.src s.pc.toNat true (baseline s) := by rw [unitScan, exact]

theorem unitScan_forward (forward : s.exact = false) :
    unitScan s = scanRun s.params s.src s.pc.toNat false (baseline s) := by rw [unitScan, forward]

theorem unitScan_keeps : (unitScan s).2.origin = s.pc.toNat ∧ (s.exact = false → (unitScan s).2.step = 1) ∧
    (unitScan s).2.reads ≤ if s.exact then 7 else 16384 :=
  scanRun_keeps s.params s.src s.pc.toNat s.exact (baseline s)

theorem unitScan_leaves : ScanLeaves s.src (.enter s.pc.toNat) (unitScan s) := scanRun_leaves s.exact

/-- The register keeps the whole count of a scan that has not left its seven offsets. -/
theorem afterFindframe_stepReg {O : Int} {k : Nat} (hk : k ≤ 6) (probe : AtProbe s.params O k (unitScan s).2) :
    (afterFindframe s).stepReg.toNat = k + 1 := by
  obtain ⟨-, step, -⟩ := probe
  exact (congrArg (· % 8) step).trans (Nat.mod_eq_of_lt (by omega))

theorem afterFindframe_n (small : (unitScan s).2.n < 2 ^ 15) : (afterFindframe s).n.toNat = (unitScan s).2.n :=
  Nat.mod_eq_of_lt small

theorem afterFindframe_origin : (afterFindframe s).origin = s.pc := by
  obtain ⟨origin, -, -⟩ := unitScan_keeps (s := s)
  rw [afterFindframe, origin, BitVec.ofInt_natCast, BitVec.ofNat_toNat, BitVec.setWidth_eq]

theorem afterFindframe_reads : (afterFindframe s).reads ≤ s.reads + 16384 := by
  obtain ⟨-, -, reads⟩ := unitScan_keeps (s := s)
  exact Nat.add_le_add_left (reads.trans (by split <;> decide)) _

theorem afterFindframe_exact_n (exact : s.exact = true) : (afterFindframe s).n = 0 := by
  rw [afterFindframe, unitScan_exact exact, scanRun_exact_n]
  rfl

theorem afterFindframe_forward_stepReg (forward : s.exact = false) : (afterFindframe s).stepReg = 1 := by
  obtain ⟨-, step, -⟩ := unitScan_keeps (s := s)
  rw [afterFindframe, step forward]
  rfl

/-- Found: the word, the header and the cursor are of the header's offset. -/
theorem afterFindframe_found {h : HeaderRec} {p : Int} (found : (unitScan s).1 = .ok (h, p)) :
    (afterFindframe s).unitResult = some (.found h p) ∧ (afterFindframe s).hc = h ∧
    (afterFindframe s).pc = BitVec.ofInt 32 p ∧ WordAt s.src p (afterFindframe s).w := by
  obtain ⟨cursor, hc, w, word, latched⟩ := scanLeaves_found unitScan_leaves found
  rw [afterFindframe, found, cursor, hc, latched]
  exact ⟨rfl, rfl, rfl, word⟩

/-- Found by a forward scan: `n` counts the failed attempts before the header (R160). -/
theorem afterFindframe_found_n {h : HeaderRec} {p : Int} (forward : s.exact = false)
    (found : (unitScan s).1 = .ok (h, p)) :
    (afterFindframe s).n.toNat < 16384 ∧ p = s.pc.toNat + (afterFindframe s).n.toNat := by
  obtain ⟨cursor, -, -⟩ := scanLeaves_found unitScan_leaves found
  have header := scanRun_forward_header (p := s.params) (src := s.src) (off := s.pc.toNat) (base := baseline s)
  rw [← unitScan_forward forward, found, cursor] at header
  obtain ⟨n, position⟩ := header nofun
  rw [afterFindframe_n (n.trans (by decide))]
  exact ⟨n, position⟩

/-- Found by an exact-offset scan: `step` is one more than the header's place in the probe sequence (R161). -/
theorem afterFindframe_found_stepReg {h : HeaderRec} {p : Int} (exact : s.exact = true)
    (found : (unitScan s).1 = .ok (h, p)) :
    1 ≤ (afterFindframe s).stepReg.toNat ∧
    p = probePosition s.params.probeMode s.pc.toNat ((afterFindframe s).stepReg.toNat - 1) := by
  obtain ⟨cursor, -, -⟩ := scanLeaves_found unitScan_leaves found
  obtain ⟨k, hk, probe⟩ := scanRun_exact_probe (p := s.params) (src := s.src) (off := s.pc.toNat) (base := baseline s)
  rw [← unitScan_exact exact] at probe
  rw [afterFindframe_stepReg hk probe]
  obtain ⟨-, -, position⟩ := probe
  exact ⟨Nat.le_add_left 1 k, cursor.symm.trans position⟩

/-- Exhausted: `HC` as it was, `W` as it was or a word of the source. -/
theorem afterFindframe_exhausted (exhausted : (unitScan s).1 = .error .scanExhausted) :
    (afterFindframe s).hc = s.hc ∧
    ((afterFindframe s).w = s.w ∨ ∃ c, WordAt s.src c (afterFindframe s).w) := by
  obtain ⟨hc, untouched | ⟨c, w, word, latched⟩⟩ := scanLeaves_exhausted unitScan_leaves exhausted
  · rw [afterFindframe, hc, untouched]
    exact ⟨rfl, .inl rfl⟩
  · rw [afterFindframe, hc, latched]
    exact ⟨rfl, .inr ⟨c, word⟩⟩

theorem afterFindframe_exhausted_forward (forward : s.exact = false)
    (exhausted : (unitScan s).1 = .error .scanExhausted) :
    (afterFindframe s).n.toNat = 16384 ∧ (afterFindframe s).pc = BitVec.ofNat 32 (s.pc.toNat + 16383) := by
  rw [unitScan_forward forward] at exhausted
  obtain ⟨n, cursor⟩ := scanRun_forward_exhausted exhausted
  rw [← unitScan_forward forward] at n cursor
  refine ⟨(afterFindframe_n (by rw [n]; decide)).trans n, ?_⟩
  rw [afterFindframe, cursor]
  exact BitVec.ofInt_natCast 32 (s.pc.toNat + 16383)

theorem afterFindframe_exhausted_exact (exact : s.exact = true) (policy : s.params.eosPolicy = .failedAttempt)
    (exhausted : (unitScan s).1 = .error .scanExhausted) :
    (afterFindframe s).stepReg.toNat = 7 ∧
    (afterFindframe s).pc = BitVec.ofInt 32 (probePosition s.params.probeMode s.pc.toNat 6) := by
  rw [unitScan_exact exact] at exhausted
  have probe := scanRun_exact_exhausted policy exhausted
  rw [← unitScan_exact exact] at probe
  refine ⟨afterFindframe_stepReg (by decide) probe, ?_⟩
  obtain ⟨-, -, position⟩ := probe
  rw [afterFindframe, position]

/-- A mismatch leaves the word and the header that stand at the cursor (R158). -/
theorem afterFindframe_mismatch (mismatch : (unitScan s).1 = .error .chainMismatch) :
    ∃ c h b0 b1 b2 b3, BytesAt s.src c b0 b1 b2 b3 ∧ decodeWord (wordOfBytes b0 b1 b2 b3) = .ok h ∧
      (afterFindframe s).hc = h ∧ (afterFindframe s).w = wordOfBytes b0 b1 b2 b3 ∧
      (afterFindframe s).pc = BitVec.ofInt 32 c := by
  obtain ⟨_, h, ⟨b0, b1, b2, b3, bytes, rfl⟩, decoded, hc, latched⟩ := scanLeaves_mismatch unitScan_leaves mismatch
  refine ⟨_, h, b0, b1, b2, b3, bytes, decoded, ?_⟩
  rw [afterFindframe, hc, latched]
  exact ⟨rfl, rfl, rfl⟩

end Unit

/-- Settles O32: answer by answer, what the scan on the registers leaves. -/
theorem findframeUnitCompletes : Obligations.FindframeUnitCompletes := by
  refine fun s => ⟨afterFindframe s, exec_findframe s, rfl, afterFindframe_origin, fun h p found => ?found,
    fun k failed => ?notFound, afterFindframe_exact_n, afterFindframe_forward_stepReg, Nat.le_add_right ..,
    afterFindframe_reads⟩
  case found =>
    obtain ⟨result, hc, pc, word⟩ := afterFindframe_found found
    exact ⟨result, hc, pc, fun forward => afterFindframe_found_n forward found,
      fun exact => afterFindframe_found_stepReg exact found, word⟩
  case notFound =>
    refine ⟨congrArg (some ∘ scanReport) failed, ?exhausted, ?mismatch⟩
    case exhausted =>
      rintro rfl
      obtain ⟨hc, w⟩ := afterFindframe_exhausted failed
      exact ⟨hc, w, fun forward => afterFindframe_exhausted_forward forward failed,
        fun exact policy => afterFindframe_exhausted_exact exact policy failed⟩
    case mismatch =>
      rintro rfl
      exact afterFindframe_mismatch failed

end Sys2Proof.Machine
end

section
/-! What VERIFY answers (R175 to R178), and what it leaves in the registers when it is run alone (R38, R177): the lookup fails,
the frame it finds is the last one asked for, or the chain step sends a second FINDFRAME behind it. -/

namespace Sys2Proof.Machine

/-! ### The bit -/

theorem scanFound_iff {r : ScanResult} : scanFound r = true ↔ ∃ h c, r = .ok (h, c) := by
  cases r with
  | ok found => exact ⟨fun _ => ⟨found.1, found.2, rfl⟩, fun _ => rfl⟩
  | error k => exact ⟨nofun, nofun⟩

theorem verifyLeaf_eq_scanFound (p : Params) (src : Memory) (off : Int) (exact : Bool) (cmp : Option HeaderRec) :
    verifyLeaf p src off exact cmp = scanFound (findFrame p src off exact cmp) := by
  unfold verifyLeaf
  cases findFrame p src off exact cmp <;> rfl

section Chain
variable {p : Params} {src : Memory} {off : Int} {exact : Bool} {cmp : Option HeaderRec}

theorem verifyChain_failed {k : FailureKind} (failed : findFrame p src off exact cmp = .error k) (findsub : Bool) :
    verifyChain p src off findsub exact cmp = false := by rw [verifyChain, failed]

variable {h : HeaderRec} {c : Int} (found : findFrame p src off exact cmp = .ok (h, c))
include found

/-- FSIZE of a found header is the formula, since no header is found that is not valid (R131, R133). -/
theorem findFrame_frameSize : frameSize h = frameSizeFormula h := by
  obtain ⟨meaning, -⟩ := scanResultMeaning p src off exact cmp
  obtain ⟨-, valid, -⟩ := meaning h c found
  exact frameSize_valid valid

theorem verifyChain_leaf : verifyChain p src off false exact cmp = true := by
  rw [verifyChain, found]
  rfl

theorem verifyChain_second :
    verifyChain p src off true exact cmp = scanFound (findFrame p src (c + frameSizeFormula h) true (some h)) := by
  rw [verifyChain, found, ← verifyLeaf_eq_scanFound, ← findFrame_frameSize found]
  rfl

end Chain

/-- Settles O33: a failed lookup answers 0, a leaf 1, and behind the chain step the second lookup decides. -/
theorem verifyBit : Obligations.VerifyBit := by
  intro p src off findsub exact cmp
  cases lookup : findFrame p src off exact cmp with
  | error k =>
    rw [verifyChain_failed lookup]
    exact ⟨nofun, nofun⟩
  | ok found =>
    obtain ⟨h, c⟩ := found
    cases findsub with
    | false => exact ⟨fun _ => ⟨h, c, rfl, nofun⟩, fun _ => verifyChain_leaf lookup⟩
    | true =>
      rw [verifyChain_second lookup, scanFound_iff]
      constructor
      · exact fun second => ⟨h, c, rfl, fun _ => second⟩
      · rintro ⟨_, _, ⟨rfl, rfl⟩, second⟩
        exact second rfl

/-! ### The registers, by the outcome of the lookup -/

/-- The inner call: its answer is that of an exact-offset FINDFRAME, which leaves `n` as its entry sets it (R155, R212), and of
the block it writes the scan's registers and `fsize` only. -/
theorem verifyInner_eq (h : HeaderRec) (next : Int) (s : State) :
    ∃ size, verifyInner h next s =
      (findFrame s.params s.src next true (some h),
        { writeScan (scanRun s.params s.src next true (some h)).2 s with n := 0, fsize := size }) := by
  simp only [verifyInner, findFrame, scanRun_exact_n]
  cases (scanRun s.params s.src next true (some h)).1 with
  | error k => exact ⟨s.fsize, rfl⟩
  | ok found => exact ⟨BitVec.ofNat 12 (frameSize found.1), rfl⟩

section Lookup
variable {s : State}

theorem verifyOnState_failed {k : FailureKind} (failed : (unitScan s).1 = .error k) :
    verifyOnState s = (.error k, (findFrameOnState s).2) := by
  rw [verifyOnState, show (findFrameOnState s).1 = .error k from failed]

variable {h : HeaderRec} {c : Int} (found : (unitScan s).1 = .ok (h, c))
include found

theorem verifyOnState_leaf (leaf : s.findsub = false) :
    verifyOnState s =
      (.ok (h, c), { (findFrameOnState s).2 with fsize := BitVec.ofNat 12 (frameSizeFormula h) }) := by
  rw [verifyOnState, show (findFrameOnState s).1 = .ok (h, c) from found, ← findFrame_frameSize found]
  simp only [leaf]
  rfl

/-- The chain step: the inner call from the second frame's place, on the registers as the step sets them (R177). -/
theorem verifyOnState_chain (chain : s.findsub = true) :
    ∃ size, verifyOnState s =
      (findFrame s.params s.src (c + frameSizeFormula h) true (some h),
        { writeScan (scanRun s.params s.src (c + frameSizeFormula h) true (some h)).2
            (chainStep h (BitVec.ofInt 32 (c + frameSizeFormula h)) (findFrameOnState s).2) with n := 0, fsize := size }) := by
  rw [verifyOnState, show (findFrameOnState s).1 = .ok (h, c) from found, ← findFrame_frameSize found]
  simp only [chain]
  exact verifyInner_eq ..

end Lookup

/-! ### VERIFY alone -/

/-- VERIFY's bit on the operands in the registers (log 11). -/
def unitVerify (s : State) : Bool := verifyChain s.params s.src s.pc.toNat s.findsub s.exact (baseline s)

theorem verifyOnState_bit (s : State) : scanFound (verifyOnState s).1 = unitVerify s := by
  unfold unitVerify
  cases lookup : (unitScan s).1 with
  | error k => rw [verifyOnState_failed lookup, verifyChain_failed lookup]; rfl
  | ok found =>
    obtain ⟨h, c⟩ := found
    cases findsub : s.findsub with
    | false => rw [verifyOnState_leaf lookup findsub, verifyChain_leaf lookup]; rfl
    | true =>
      obtain ⟨size, chain⟩ := verifyOnState_chain lookup findsub
      rw [chain, verifyChain_second lookup]

/-- R38: the registers that VERIFY writes. -/
theorem verifyOnState_frame (s : State) :
    (verifyOnState s).2 = { s with
      w := (verifyOnState s).2.w, hc := (verifyOnState s).2.hc, pc := (verifyOnState s).2.pc, n := (verifyOnState s).2.n
      stepReg := (verifyOnState s).2.stepReg, origin := (verifyOnState s).2.origin, fsize := (verifyOnState s).2.fsize
      hb := (verifyOnState s).2.hb, exact := (verifyOnState s).2.exact, findsub := (verifyOnState s).2.findsub
      hbValid := (verifyOnState s).2.hbValid, port := (verifyOnState s).2.port, reads := (verifyOnState s).2.reads } := by
  cases lookup : (unitScan s).1 with
  | error k => rw [verifyOnState_failed lookup]; rfl
  | ok found =>
    cases findsub : s.findsub with
    | false => rw [verifyOnState_leaf lookup findsub]; rfl
    | true =>
      obtain ⟨size, chain⟩ := verifyOnState_chain lookup findsub
      rw [chain]
      rfl

/-- The state the unit leaves. -/
def afterVerify (s : State) : State :=
  reportUnit (.bit (unitVerify s)) (scanFailure (verifyOnState s).1) (verifyOnState s).2

theorem exec_verify (s : State) : exec .verify s = .next (afterVerify s) := by
  rw [afterVerify, ← verifyOnState_bit]
  rfl

theorem afterVerify_frame (s : State) :
    afterVerify s = { s with
      w := (afterVerify s).w, hc := (afterVerify s).hc, pc := (afterVerify s).pc, n := (afterVerify s).n
      stepReg := (afterVerify s).stepReg, origin := (afterVerify s).origin, fsize := (afterVerify s).fsize
      hb := (afterVerify s).hb, exact := (afterVerify s).exact, findsub := (afterVerify s).findsub
      hbValid := (afterVerify s).hbValid, port := (afterVerify s).port, reads := (afterVerify s).reads
      unitResult := (afterVerify s).unitResult, lastFailure := (afterVerify s).lastFailure } :=
  congrArg (reportUnit (.bit (unitVerify s)) (scanFailure (verifyOnState s).1)) (verifyOnState_frame s)

section Unit
variable {s : State}

theorem afterVerify_failed {k : FailureKind} (failed : (unitScan s).1 = .error k) :
    (afterVerify s).fsize = s.fsize ∧ (afterVerify s).hb = s.hb ∧ (afterVerify s).exact = s.exact ∧
    (afterVerify s).findsub = s.findsub ∧ (afterVerify s).hbValid = s.hbValid := by
  rw [afterVerify, verifyOnState_failed failed]
  exact ⟨rfl, rfl, rfl, rfl, rfl⟩

variable {h : HeaderRec} {c : Int} (found : (unitScan s).1 = .ok (h, c))
include found

/-- A leaf leaves FINDFRAME's registers and the size of the frame, which 12 bits hold (R134). -/
theorem afterVerify_leaf (leaf : s.findsub = false) :
    (afterVerify s).fsize.toNat = frameSizeFormula h ∧ (afterVerify s).hc = h ∧ (afterVerify s).pc = BitVec.ofInt 32 c ∧
    (afterVerify s).hb = s.hb ∧ (afterVerify s).exact = s.exact ∧ (afterVerify s).findsub = s.findsub ∧
    (afterVerify s).hbValid = s.hbValid := by
  obtain ⟨-, hc, pc, -⟩ := afterFindframe_found found
  have size : frameSizeFormula h < 2 ^ 12 := findFrame_frameSize found ▸ frameSize_lt h
  rw [afterVerify, verifyOnState_leaf found leaf]
  exact ⟨Nat.mod_eq_of_lt size, hc, pc, rfl, rfl, rfl, rfl⟩

/-- The inner call keeps the baseline and the flags of the chain step, and its entry sets `n` and `origin`. -/
theorem afterVerify_chain (chain : s.findsub = true) :
    (afterVerify s).hb = h ∧ (afterVerify s).hbValid = true ∧ (afterVerify s).exact = true ∧
    (afterVerify s).findsub = false ∧ (afterVerify s).n = 0 ∧
    (afterVerify s).origin = BitVec.ofInt 32 (c + frameSizeFormula h) := by
  obtain ⟨size, registers⟩ := verifyOnState_chain found chain
  obtain ⟨origin, -⟩ := scanRun_keeps s.params s.src (c + frameSizeFormula h) true (some h)
  rw [afterVerify, registers]
  exact ⟨rfl, rfl, rfl, rfl, rfl, congrArg (BitVec.ofInt 32) origin⟩

end Unit

/-- Settles O34: outcome by outcome of the lookup, what the unit leaves. -/
theorem verifyUnitCompletes : Obligations.VerifyUnitCompletes := fun s =>
  ⟨afterVerify s, exec_verify s, rfl, afterVerify_frame s, fun _ => afterVerify_failed,
    fun _ _ found => ⟨afterVerify_leaf found, afterVerify_chain found⟩⟩

end Sys2Proof.Machine
end

section
/-! The rows of the sequencer's table (R188, decision D2) by their transfers: IDLE, TAG, the hits and misses of both scans, and
the header and tag rows that the steps run. -/

namespace Sys2Proof.Machine

/-! ### The hits -/

section Hit
variable {s : State} {h : HeaderRec}

/-- Row SCAN1, Hit, with R131's size. -/
theorem firstHit_valid (valid : validRecord h = true) :
    firstHit h s =
      { s with
        hc := h, fsize := BitVec.ofNat 12 (frameSizeFormula h), hb := h, hbValid := true
        pc := s.pc + BitVec.ofNat 32 (frameSizeFormula h), origin := s.pc + BitVec.ofNat 32 (frameSizeFormula h)
        exact := true, findsub := false, stepReg := 1, phase := .scan2, lastFailure := none } := by
  rw [firstHit, frameSize_valid valid]
  rfl

/-- Row SCAN2, Hit, with a header that matches the baseline. -/
theorem secondHit_match (valid : validRecord h = true) (baseline : validRecord s.hb = true)
    (same : headersMatch h s.hb = true) :
    secondHit h s =
      { s with
        hc := h, fsize := BitVec.ofNat 12 (frameSizeFormula h), verdict := true, done := true, busy := false
        phase := .idle, lastFailure := none } := by
  rw [secondHit, matchResult_valid valid baseline, if_pos same, frameSize_valid valid]
  rfl

/-- Row SCAN2, Hit, with a header that does not match it: a hard stop, and `fsize` stays (R158). -/
theorem secondHit_mismatch (valid : validRecord h = true) (baseline : validRecord s.hb = true)
    (other : headersMatch h s.hb = false) :
    secondHit h s =
      { s with
        hc := h, verdict := false, done := true, busy := false, phase := .idle, lastFailure := some .chainMismatch } := by
  rw [secondHit, matchResult_valid valid baseline, if_neg (Bool.eq_false_iff.1 other)]
  rfl

theorem headerHit_outside (outside : s.phase = .idle ∨ s.phase = .tag) :
    headerHit h s = { s with hc := h, lastFailure := none } := by
  obtain phase | phase := outside <;> rw [headerHit, phase]

end Hit

/-- Settles O52: a valid row is the Hit of its record, and its record is valid. -/
theorem validRowsStartTheChain : Obligations.ValidRowsStartTheChain := by
  intro i h s wf row phase
  rw [exec_of_rowRecord row, headerHit_scan1 h phase, firstHit_valid (rowRecord_valid wf row)]

/-- Settles O53: MATCH decides between the two Hit rows. -/
theorem validRowsDecideTheVerdict : Obligations.ValidRowsDecideTheVerdict := by
  intro i h s wf row phase baseline
  have valid := rowRecord_valid wf row
  rw [exec_of_rowRecord row, headerHit_scan2 h phase]
  exact ⟨fun same => congrArg _ (secondHit_match valid baseline same),
    fun other => congrArg _ (secondHit_mismatch valid baseline other)⟩

/-! ### The misses -/

section Miss
variable {s : State} (k : Option FailureKind)

theorem forwardMiss_continues (more : s.n.toNat + 1 < 16384) :
    forwardMiss k s = { s with n := s.n + 1, pc := s.pc + 1, lastFailure := k } :=
  if_neg (Nat.not_le_of_lt more)

theorem forwardMiss_ends (last : 16384 ≤ s.n.toNat + 1) :
    forwardMiss k s = finishDetection false (some .scanExhausted) { s with n := s.n + 1 } :=
  if_pos last

theorem failedAttempt_outside (outside : s.phase = .idle ∨ s.phase = .tag) :
    failedAttempt k s = { s with lastFailure := k } := by
  obtain phase | phase := outside <;> rw [failedAttempt, phase]

end Miss

/-- Settles O54: a reject row is a failed attempt, and none is a Short read, so that only the counters end a scan. -/
theorem rejectRowsFailTheAttempt : Obligations.RejectRowsFailTheAttempt := by
  intro i k s row
  rw [exec_of_rejectKind row]
  refine ⟨fun phase more => ?_, fun phase last => ?_, fun phase more => ?_, fun phase last => ?_⟩
  · rw [failedAttempt_scan1 k phase, forwardMiss_continues k more]
  · rw [failedAttempt_scan1 k phase, forwardMiss_ends k last]
    rfl
  · rw [failedAttempt_scan2 k phase, exactMiss_continues more fun short => rejectKind_read row short.1]
  · rw [failedAttempt_scan2 k phase, exactMiss_ends (.inl last)]
    rfl

/-- Settles O55: what remains of a Hit and of a failed attempt outside a scan. -/
theorem headerRowsOutsideAScan : Obligations.HeaderRowsOutsideAScan := fun _ s outside =>
  ⟨fun _ row => (exec_of_rowRecord row s).trans (congrArg _ (headerHit_outside outside)),
    fun k row => (exec_of_rejectKind row s).trans (congrArg _ (failedAttempt_outside k outside))⟩

/-! ### The tag rows -/

theorem tagRow_outside {s : State} (len : Nat) (outside : s.phase ≠ .tag) :
    tagRow len s = { s with pc := BitVec.ofNat 32 len, lastFailure := none } := by
  cases phase : s.phase with
  | tag => exact absurd phase outside
  | idle | scan1 | scan2 => rw [tagRow, phase]

theorem execTagRow_tag {s : State} (footer : Bool) (t : TagFields) (phase : s.phase = .tag) :
    exec (tagInstr footer t) s = .next (tagSkipped (tagFieldsLength footer t) none s) := by
  rw [exec_tagInstr, tagRow_tag _ phase]

theorem execTagRow_outside {s : State} (footer : Bool) (t : TagFields) (outside : s.phase ≠ .tag) :
    exec (tagInstr footer t) s =
      .next { s with pc := BitVec.ofNat 32 (tagFieldsLength footer t), lastFailure := none } := by
  rw [exec_tagInstr, tagRow_outside _ outside]

/-- Settles O23: the two lengths of R146 in row TAG, and in the phases that fetch no tag row. -/
theorem tagRowsEnterForwardScan : Obligations.TagRowsEnterForwardScan := fun t _ =>
  ⟨fun phase => ⟨execTagRow_tag false t phase, execTagRow_tag true t phase⟩,
    fun outside => ⟨execTagRow_outside false t outside, execTagRow_outside true t outside⟩⟩

/-! ### The steps -/

/-- A step that takes no request from the host changes nothing. -/
theorem consumeInputs_of_none {s : State} (start : s.start = false) (unitReq : s.unitReq = none) :
    consumeInputs s = s := by
  cases s
  cases start
  cases unitReq
  rfl

theorem step_start {s : State} (reset : s.rst = false) (phase : s.phase = .idle) (start : s.start = true) :
    step s = .next (startDetection (consumeInputs s)) := by
  rw [step_idle reset phase, stepIdle, if_pos start]

/-- Settles O42: with no request a step takes the inputs as they are, and a start takes row IDLE. -/
theorem idleHoldsOrStarts : Obligations.IdleHoldsOrStarts := by
  refine fun s reset phase => ⟨fun start unitReq => ?_, step_start reset phase⟩
  rw [step_idle reset phase, stepIdle, start, unitReq, consumeInputs_of_none start unitReq]
  rfl

theorem step_tagRow {s : State} (steady : Steady s) (phase : s.phase = .tag) :
    step s =
      .next (tagSkipped (skipTag s.src 0) (probeFailure (memRead s.src 0 10))
        (latchTag 0 (memRead s.src 0 10) (consumeInputs s))) := by
  rw [step_tag steady.1 phase steady.2, stepTag_eq phase]

/-- Settles O43: the cursor goes to SKIPTAG(0) whatever the probe answers. -/
theorem tagStepProbesOffsetZero : Obligations.TagStepProbesOffsetZero := fun s steady phase =>
  ⟨probeFailure (memRead s.src 0 10), step_tagRow steady phase⟩

section Scan
variable {s : State} (steady : Steady s) (scan : s.phase = .scan1 ∨ s.phase = .scan2)
include steady scan

/-- A scan step where no header stands is a failed attempt, of kind SourceUnreadable exactly when the read is Short. -/
theorem step_scan_miss (miss : NoHeaderAt s.src s.pc.toNat) :
    ∃ k, (k = some .sourceUnreadable ↔ memRead s.src s.pc.toNat 4 = .short) ∧
      step s = .next (failedAttempt k (fetched s)) := by
  rw [step_scan steady.1 scan steady.2]
  exact stepScan_miss miss

/-- A scan step where a header stands is its Hit. -/
theorem step_scan_hit {h : HeaderRec} (here : HeaderAt s.src s.pc.toNat h) :
    step s = .next (headerHit h (fetched s)) := by
  obtain ⟨b0, b1, b2, b3, bytes, candidate, decoded⟩ := here
  rw [step_scan steady.1 scan steady.2, stepScan_hit bytes candidate decoded, fetched,
    show memRead s.src s.pc.toNat 4 = .bytes [b0, b1, b2, b3] from bytes.2]

end Scan

theorem fetched_of_bytesAt {s : State} {b0 b1 b2 b3 : Byte} (bytes : BytesAt s.src s.pc.toNat b0 b1 b2 b3) :
    fetched s =
      { s with
        w := wordOfBytes b0 b1 b2 b3
        port := { reqValid := true, reqAddr := s.pc, reqLen := false, rsp := .word (wordOfBytes b0 b1 b2 b3) }
        start := false, unitReq := none, reads := s.reads + 1 } := by
  rw [fetched, show memRead s.src s.pc.toNat 4 = .bytes [b0, b1, b2, b3] from bytes.2]
  rfl

/-- Settles O44: the failed attempt of a forward scan, whose count alone ends it. -/
theorem forwardScanStepMisses : Obligations.ForwardScanStepMisses := by
  intro s steady phase miss
  obtain ⟨k, -, taken⟩ := step_scan_miss steady (.inl phase) miss
  rw [failedAttempt_scan1 (s := fetched s) k phase] at taken
  exact ⟨k, fun more => taken.trans (congrArg _ (forwardMiss_continues (s := fetched s) k more)),
    fun last => taken.trans (congrArg _ (forwardMiss_ends (s := fetched s) k last))⟩

/-- Settles O45: the Hit of a decoded record, which is valid, after the four bytes are latched. -/
theorem forwardScanStepHits : Obligations.ForwardScanStepHits := by
  intro s b0 b1 b2 b3 h steady phase bytes candidate decoded
  rw [step_scan_hit steady (.inl phase) ⟨b0, b1, b2, b3, bytes, candidate, decoded⟩,
    headerHit_scan1 (s := fetched s) h phase, firstHit_valid (decodeWord_valid decoded), fetched_of_bytesAt bytes]

/-- Settles O46: the failed attempt of an exact-offset scan, which its count ends, or the policy at a Short read. -/
theorem exactScanStepMisses : Obligations.ExactScanStepMisses := by
  intro s steady phase miss
  obtain ⟨k, unreadable, taken⟩ := step_scan_miss steady (.inr phase) miss
  rw [failedAttempt_scan2 (s := fetched s) k phase] at taken
  have stops : k = some .sourceUnreadable ∧ s.params.eosPolicy = .stopAtOnce ↔
      s.params.eosPolicy = .stopAtOnce ∧ memRead s.src s.pc.toNat 4 = .short := by rw [unreadable, and_comm]
  exact ⟨fun last => taken.trans (congrArg _ (exactMiss_ends (s := fetched s) (last.imp_right stops.2))),
    fun more going => ⟨k, taken.trans (congrArg _ (exactMiss_continues (s := fetched s) more (going ∘ stops.1)))⟩⟩

/-- Settles O47: MATCH decides between the two Hit rows, after the four bytes are latched. -/
theorem exactScanStepHits : Obligations.ExactScanStepHits := by
  intro s b0 b1 b2 b3 h steady phase baseline bytes candidate decoded
  have valid := decodeWord_valid decoded
  have matched := secondHit_match (s := fetched s) valid baseline
  have mismatched := secondHit_mismatch (s := fetched s) valid baseline
  rw [fetched_of_bytesAt bytes] at matched mismatched
  rw [step_scan_hit steady (.inr phase) ⟨b0, b1, b2, b3, bytes, candidate, decoded⟩,
    headerHit_scan2 (s := fetched s) h phase, fetched_of_bytesAt bytes]
  exact ⟨fun same => congrArg _ (matched same), fun other => congrArg _ (mismatched other)⟩

end Sys2Proof.Machine
end

section
/-! What DETECT answers (R185, R193), by the two scans that decide it, and what it leaves outside the block (R186). -/

namespace Sys2Proof.Machine

/-! ### The verdict by its two scans -/

/-- R185 unfolded: a frame after the tag, and a second one where its size puts the next. -/
theorem detectVerdict_iff {p : Params} {src : Memory} :
    detectVerdict p src = true ↔
      ∃ h1 p1 h2 p2, findFrame p src (skipTag src 0) false none = .ok (h1, p1) ∧
        findFrame p src (p1 + frameSizeFormula h1) true (some h1) = .ok (h2, p2) := by
  rw [detectVerdict, verifyBit]
  constructor
  · rintro ⟨h1, p1, first, second⟩
    obtain ⟨h2, p2, second⟩ := second rfl
    exact ⟨h1, p1, h2, p2, first, second⟩
  · rintro ⟨h1, p1, h2, p2, first, second⟩
    exact ⟨h1, p1, first, fun _ => ⟨h2, p2, second⟩⟩

/-- A header at the computed offset is the first attempt of an exact-offset scan, under both policies. -/
theorem findFrame_exact_here {p : Params} {src : Memory} {off : Int} {base : Option HeaderRec} {h : HeaderRec}
    (here : HeaderAt src off h) : findFrame p src off true base = atFirstHit base h off := by
  have found := findFrame_exact_found (p := p) (src := src) (off := off) (base := base) (k := 0) (h := h) (by decide)
  rw [probePosition_zero, Int.add_zero] at found
  exact found here nofun

section Detect
variable {p : Params} {src : Memory}

theorem detectVerdict_of_no_first (nowhere : ∀ k : Nat, k < 16384 → NoHeaderAt src (skipTag src 0 + k)) :
    detectVerdict p src = false :=
  verifyChain_failed ((forwardScanTakesFirstHeader p src (skipTag src 0) none).2 nowhere) true

variable {k : Nat} {h1 : HeaderRec} (range : k < 16384) (first : HeaderAt src (skipTag src 0 + k) h1)
  (before : ∀ j : Nat, j < k → NoHeaderAt src (skipTag src 0 + j))
include range first before

/-- Behind the first header of the range the exact-offset scan from the computed offset decides. -/
theorem detectVerdict_of_first :
    detectVerdict p src =
      scanFound (findFrame p src (skipTag src 0 + k + frameSizeFormula h1) true (some h1)) :=
  verifyChain_second ((forwardScanTakesFirstHeader p src (skipTag src 0) none).1 k h1 range first before)

/-- Where a header stands at the computed offset, MATCH alone decides (R187, R158). -/
theorem detectVerdict_of_second {h2 : HeaderRec}
    (second : HeaderAt src (skipTag src 0 + k + frameSizeFormula h1) h2) :
    detectVerdict p src = headersMatch h2 h1 := by
  rw [detectVerdict_of_first range first before, findFrame_exact_here second, atFirstHit,
    matchResult_valid (headerAt_valid second) (headerAt_valid first)]
  cases headersMatch h2 h1 <;> rfl

/-- A single frame: no header on any of the seven offsets (R181). -/
theorem detectVerdict_of_no_second
    (nowhere : ∀ j : Nat, j < 7 →
      NoHeaderAt src (skipTag src 0 + k + frameSizeFormula h1 + probePosition p.probeMode 0 j)) :
    detectVerdict p src = false := by
  rw [detectVerdict_of_first range first before, findFrame_exact_none fun j hj _ => nowhere j hj]
  rfl

end Detect

/-- Settles O38: the header at the computed offset is the one that MATCH decides. -/
theorem adjacentFramesAccepted : Obligations.AdjacentFramesAccepted :=
  fun _ _ _ _ _ range first before second same => (detectVerdict_of_second range first before second).trans same

/-- A source of zero bytes holds no header, because a header begins with 0xFF. -/
theorem noHeaderAt_of_no_cells {src : Memory} (zeros : src.cells = []) (c : Int) : NoHeaderAt src c := by
  apply noHeader_of_byte
  rw [Memory.byteAt, zeros, lookupCell]
  decide

/-- Settles O39: no first header, a second one that does not match, or no second one. -/
theorem sourcesRejected : Obligations.SourcesRejected := by
  refine fun p src => ⟨fun zeros => ?zeros, detectVerdict_of_no_first, fun k h1 range first before rejected => ?_⟩
  case zeros => exact detectVerdict_of_no_first fun _ _ => noHeaderAt_of_no_cells zeros _
  obtain ⟨h2, second, other⟩ | nowhere := rejected
  · exact (detectVerdict_of_second range first before second).trans other
  · exact detectVerdict_of_no_second range first before nowhere

/-! ### DETECT on the registers -/

/-- The registers that DETECT's forward scan starts from: those of row TAG, with SKIPTAG(0) in the cursor. -/
def scanEntry (s : State) : State :=
  tagSkipped (skipTag s.src 0) (probeFailure (memRead s.src 0 10)) (latchTag 0 (memRead s.src 0 10) (startDetection s))

theorem scanEntry_pc (s : State) : (scanEntry s).pc.toNat = skipTag s.src 0 := by
  have bound := skipTag_le s.src
  have max := maxTagOffset_eq
  exact Nat.mod_eq_of_lt (by omega)

theorem detectOnState_eq (s : State) :
    detectOnState s =
      ((verifyOnState (scanEntry s)).1,
        finishDetection (scanFound (verifyOnState (scanEntry s)).1) (scanFailure (verifyOnState (scanEntry s)).1)
          { (verifyOnState (scanEntry s)).2 with n := (findFrameOnState (scanEntry s)).2.n }) := rfl

/-- The verdict that DETECT leaves is VERIFY's bit from SKIPTAG(0). -/
theorem detectOnState_verdict (s : State) : (detectOnState s).2.verdict = detectVerdict s.params s.src := by
  have bit := verifyOnState_bit (scanEntry s)
  rw [unitVerify, scanEntry_pc] at bit
  exact bit

/-- DETECT from IDLE leaves the registers of the detection, and its verdict in the unit's ghost. -/
theorem exec_detect {s : State} (phase : s.phase = .idle) :
    exec .detect s = .next { (detectOnState s).2 with unitResult := some (.bit (detectOnState s).2.verdict) } := by
  rw [exec, execDetect, phase]
  rfl

/-- Settles O35: the verdict is VERIFY's, and VERIFY writes nothing outside the block. -/
theorem detectVerdictIff : Obligations.DetectVerdictIff := by
  intro s phase
  have frame := verifyOnState_frame (scanEntry s)
  refine ⟨_, exec_detect phase, rfl, rfl, rfl, ?verdict, rfl, ?outside⟩
  case verdict => exact (detectOnState_verdict s).symm ▸ detectVerdict_iff
  case outside =>
    exact ⟨(congrArg State.src frame :), (congrArg State.params frame :), (congrArg State.start frame :),
      (congrArg State.rst frame :), (congrArg State.srcAnswers frame :), (congrArg State.unitReq frame :),
      (congrArg State.freeCount frame :)⟩

end Sys2Proof.Machine
end

section
/-! The registers of a scan in progress at the two levels (R189): the read of a scan step leaves what an attempt of the scan loop
records, and DETECT leaves its last scan's record with the end of R186. -/

namespace Sys2Proof.Machine

/-! ### A scan in progress -/

/-- The registers of a scan that was entered with those of `s` and has come to `r`. The port and the failure ghost are those of
the last step. -/
def midScan (s : State) (r : ScanRun) (port : ReadPort) (k : Option FailureKind) : State :=
  { writeScan r s with n := s.n + BitVec.ofNat 15 r.n, port := port, lastFailure := k }

/-- At its entry a scan has written nothing. -/
theorem midScan_enter {s : State} {off : Int} (pc : s.pc = BitVec.ofInt 32 off) (origin : s.origin = BitVec.ofInt 32 off)
    (step : s.stepReg = 1) (port : ReadPort) (k : Option FailureKind) :
    midScan s (.enter off) port k = { s with port := port, lastFailure := k } := by
  rw [midScan, show s.n + BitVec.ofNat 15 (ScanRun.enter off).n = s.n from add_zero s.n]
  cases s
  cases pc
  cases origin
  cases step
  rfl

/-- What an attempt that makes a read records of it. -/
theorem record_read (src : Memory) (a : Nat) (r : ScanRun) (w : Word) :
    (r.record (attemptOn (memRead src a 4))).w.getD w = wordLatched (memRead src a 4) (r.w.getD w) ∧
    (r.record (attemptOn (memRead src a 4))).port = wordPort (BitVec.ofInt 32 r.cursor) (memRead src a 4) ∧
    (r.record (attemptOn (memRead src a 4))).reads = r.reads + 1 := by
  cases read : memRead src a 4 with
  | short => exact ⟨rfl, rfl, rfl⟩
  | bytes bs =>
    obtain ⟨b0, b1, b2, b3, rfl⟩ := memRead_four read
    rw [attemptOn_bytes]
    split
    · split <;> exact ⟨rfl, rfl, rfl⟩
    · exact ⟨rfl, rfl, rfl⟩

section Fetch
variable {s : State} {r : ScanRun} {a : Nat} (start : s.start = false) (unitReq : s.unitReq = none)
  (cursor : r.cursor = a) (small : a < 2 ^ 32) (port : ReadPort) (k : Option FailureKind)

include cursor small in
theorem midScan_pc : (midScan s r port k).pc.toNat = a := by
  rw [midScan, writeScan, cursor, BitVec.ofInt_natCast]
  exact Nat.mod_eq_of_lt small

include start unitReq cursor small

/-- The read of a scan step is the attempt that the scan records, but for `HC`, which the row writes. -/
theorem fetched_midScan :
    fetched (midScan s r port k) =
      { midScan s (r.record (attemptAt s.src r.cursor)) (r.record (attemptAt s.src r.cursor)).port k with
        hc := r.hc.getD s.hc } := by
  have pc := midScan_pc (s := s) cursor small port k
  obtain ⟨w, rsp, reads⟩ := record_read s.src a r s.w
  rw [cursor, attemptAt_natural]
  obtain ⟨cursor', origin', n', step', -⟩ := record_counters (attemptOn (memRead s.src a 4)) r
  rw [fetched, pc]
  simp only [midScan, writeScan, cursor', origin', n', step', w, rsp, reads, latchWord, consumeInputs, start, unitReq,
    Nat.add_assoc]

theorem fetched_midScan_miss (miss : NoHeaderAt s.src r.cursor) :
    fetched (midScan s r port k) =
      midScan s (r.record (attemptAt s.src r.cursor)) (r.record (attemptAt s.src r.cursor)).port k := by
  rw [fetched_midScan start unitReq cursor small, ← (record_of_miss (attemptAt_miss miss)).1]
  rfl

end Fetch

/-! ### DETECT by its scans -/

/-- How a detection ends by the answer of its last scan (R186): a frame is found, and its size goes to `fsize`, or none is. -/
def endDetection (answer : ScanResult) (s : State) : State :=
  match answer with
  | .ok (h, _) => finishDetection true none { s with fsize := BitVec.ofNat 12 (frameSize h) }
  | .error k => finishDetection false (some k) s

/-- The registers behind the chain step (R177) when the first scan, from those of `s`, has found `h` and come to `r`. -/
def chainEntry (s : State) (h : HeaderRec) (r : ScanRun) : State :=
  chainStep h (BitVec.ofInt 32 (r.cursor + frameSize h))
    { midScan s r r.port s.lastFailure with fsize := BitVec.ofNat 12 (frameSize h) }

/-- The same registers as the sequencer has them, in phase SCAN2 (R188). -/
def secondEntry (s : State) (h : HeaderRec) (r : ScanRun) : State := { chainEntry s h r with phase := .scan2 }

/-- MATCH's answer at the second header, as the sequencer's row and the scan's result give it. -/
theorem secondHit_eq_endDetection (h : HeaderRec) (c : Int) (s : State) :
    secondHit h s = endDetection (atFirstHit (some s.hb) h c) { s with hc := h } := by
  rw [secondHit, atFirstHit]
  split <;> rfl

theorem findFrameOnState_eq_midScan {s : State} (n : s.n = 0) :
    findFrameOnState s = ((unitScan s).1, midScan s (unitScan s).2 (unitScan s).2.port s.lastFailure) := by
  rw [midScan, n, zero_add]
  rfl

/-- The end that DETECT makes of its second scan, with the `n` of its first (log 12). -/
theorem finish_verifyInner {s : State} {h : HeaderRec} {next : Int} {answer : ScanResult} {r : ScanRun}
    (second : scanRun s.params s.src next true (some h) = (answer, r)) (k : Option FailureKind) :
    finishDetection (scanFound (verifyInner h next s).1) (scanFailure (verifyInner h next s).1)
        { (verifyInner h next s).2 with n := s.n } =
      endDetection answer (midScan { s with phase := .scan2 } r r.port k) := by
  have n := scanRun_exact_n (p := s.params) (src := s.src) (off := next) (base := some h)
  rw [second] at n
  rw [verifyInner, second, midScan, n, show BitVec.ofNat 15 0 = 0 from rfl, add_zero]
  cases answer <;> rfl

section Detect
variable {s : State} {r : ScanRun}

/-- DETECT's forward scan, from SKIPTAG(0) and without a baseline. -/
theorem unitScan_scanEntry : unitScan (scanEntry s) = scanRun s.params s.src (skipTag s.src 0) false none := by
  rw [unitScan, scanEntry_pc]
  rfl

/-- No first frame: DETECT ends with the registers of the forward scan. -/
theorem detectOnState_failed {e : FailureKind} (failed : unitScan (scanEntry s) = (.error e, r))
    (k : Option FailureKind) :
    (detectOnState s).2 = endDetection (.error e) (midScan (scanEntry s) r r.port k) := by
  rw [detectOnState_eq, verifyOnState_failed (congrArg Prod.fst failed), findFrameOnState_eq_midScan rfl, failed]
  rfl

/-- A first frame: DETECT ends with the registers of the exact-offset scan behind the chain step. -/
theorem detectOnState_chain {h : HeaderRec} (found : unitScan (scanEntry s) = (.ok (h, r.cursor), r))
    {answer : ScanResult} {r' : ScanRun}
    (second : scanRun s.params s.src (r.cursor + frameSize h) true (some h) = (answer, r')) (k : Option FailureKind) :
    (detectOnState s).2 = endDetection answer (midScan (secondEntry (scanEntry s) h r) r' r'.port k) := by
  have verify : verifyOnState (scanEntry s) = verifyInner h (r.cursor + frameSize h) (chainEntry (scanEntry s) h r) := by
    rw [verifyOnState, findFrameOnState_eq_midScan rfl, found]
    rfl
  rw [detectOnState_eq, verify, findFrameOnState_eq_midScan rfl, found]
  exact finish_verifyInner (s := chainEntry (scanEntry s) h r) second k

end Detect

end Sys2Proof.Machine
end

section
/-! A detection under way (R188): at each step the registers are those that DETECT's two scans have come to after as many
attempts, so that the step which ends the detection leaves DETECT's registers (R189), and every step makes one read (R190). -/

namespace Sys2Proof.Machine

/-! ### Where a detection stands -/

/-- No reset, a source that answers, and no request of the host's pending. -/
structure Ready (s : State) : Prop where
  steady : Steady s
  start : s.start = false
  unitReq : s.unitReq = none

/-- DETECT's forward scan has come to `r`. -/
structure ForwardScan (s : State) (r : ScanRun) : Prop where
  answer : ∃ fuel, 16384 ≤ r.n + fuel ∧ scanLoop s.params s.src false none fuel r = unitScan (scanEntry s)
  range : r.n < 16384
  cursor : r.cursor = (skipTag s.src 0 + r.n : Nat)
  reads : r.reads = r.n

/-- DETECT's forward scan has found `h` and come to `r`. -/
structure FirstFrame (s : State) (h : HeaderRec) (r : ScanRun) : Prop where
  found : unitScan (scanEntry s) = (.ok (h, r.cursor), r)
  valid : validRecord h = true
  cursor : ∃ a : Nat, r.cursor = a ∧ a ≤ maxTagOffset + 16383
  reads : 1 ≤ r.reads ∧ r.reads ≤ 16384

/-- DETECT's exact-offset scan behind that frame has come to attempt `i` and to `r`. -/
structure ExactScan (s : State) (h : HeaderRec) (first : ScanRun) (i : Nat) (r : ScanRun) : Prop where
  answer : ∃ fuel, 7 ≤ i + fuel ∧ scanLoop s.params s.src true (some h) fuel r =
    scanRun s.params s.src (first.cursor + frameSize h) true (some h)
  probe : AtProbe s.params (first.cursor + frameSize h) i r
  range : i ≤ 6
  reads : r.reads = i

/-- The states of the detection that starts from `s`, phase by phase. -/
inductive Underway (s : State) : State → Prop
  | tag : Underway s (startDetection s)
  | forward {r : ScanRun} (scan : ForwardScan s r) (port : ReadPort) (k : Option FailureKind) :
      Underway s (midScan (scanEntry s) r port k)
  | exact {h : HeaderRec} {first r : ScanRun} {i : Nat} (frame : FirstFrame s h first) (scan : ExactScan s h first i r)
      (port : ReadPort) (k : Option FailureKind) :
      Underway s (midScan (secondEntry (scanEntry s) h first) r port k)

/-- A step from `u` makes one read and leads on, or to the registers that DETECT leaves, but not before the third read. -/
def Advances (s u : State) : Prop :=
  ∃ t, step u = .next t ∧ t.reads = u.reads + 1 ∧ (Underway s t ∨ (t = (detectOnState s).2 ∧ 2 ≤ u.reads))

theorem endDetection_reads (answer : ScanResult) (s : State) : (endDetection answer s).reads = s.reads := by
  cases answer <;> rfl

theorem record_reads {src : Memory} {r : ScanRun} {a : Nat} (cursor : r.cursor = a) :
    (r.record (attemptAt src r.cursor)).reads = r.reads + 1 := by
  rw [cursor, attemptAt_natural]
  exact (record_read src a r 0).2.2

variable {s : State}

/-! ### The forward scan -/

theorem forwardScan_enter (s : State) : ForwardScan s (.enter (skipTag s.src 0)) := by
  obtain ⟨fuel, enough, run⟩ := scanRun_fuel s.params s.src (skipTag s.src 0) false none
  exact ⟨⟨fuel, by omega, run.symm.trans unitScan_scanEntry.symm⟩, Nat.zero_lt_succ _, rfl, rfl⟩

/-- The transfer after a failed attempt of a forward scan (R160). -/
def ScanRun.advance (r : ScanRun) : ScanRun := { r with n := r.n + 1, cursor := r.cursor + 1 }

section ForwardMiss
variable {r : ScanRun} {port : ReadPort} {k k' : Option FailureKind}

theorem midScan_n_succ : (midScan s r port k).n + 1 = s.n + BitVec.ofNat 15 (r.n + 1) := by
  rw [midScan, BitVec.ofNat_add, ← add_assoc]
  rfl

theorem forwardMiss_midScan (more : (midScan s r port k).n.toNat + 1 < 16384) :
    forwardMiss k' (midScan s r port k) = midScan s r.advance port k' := by
  have pc : (midScan s r port k).pc + 1 = BitVec.ofInt 32 (r.cursor + 1) := by
    rw [BitVec.ofInt_add]
    rfl
  rw [forwardMiss_continues _ more, midScan_n_succ, pc]
  rfl

theorem forwardMiss_midScan_last (last : 16384 ≤ (midScan s r port k).n.toNat + 1) :
    forwardMiss k' (midScan s r port k) =
      endDetection (.error .scanExhausted) (midScan s { r with n := r.n + 1 } port k) := by
  rw [forwardMiss_ends _ last, midScan_n_succ]
  rfl

theorem midScan_scanEntry_n (range : r.n < 16384) : (midScan (scanEntry s) r port k).n.toNat = r.n := by
  rw [midScan, show (scanEntry s).n = 0 from rfl, zero_add]
  exact Nat.mod_eq_of_lt (range.trans (by decide))

/-- The read of row TAG, and those of the forward scan. -/
theorem midScan_scanEntry_reads : (midScan (scanEntry s) r port k).reads = 1 + r.reads := rfl

end ForwardMiss

section Forward
variable {r : ScanRun} (scan : ForwardScan s r)
include scan

theorem ForwardScan.cursor_small : skipTag s.src 0 + r.n < 2 ^ 32 := by
  have bound := skipTag_le s.src
  have max := maxTagOffset_eq
  have range := scan.range
  omega

theorem ForwardScan.fuel_succ : ∃ fuel, 16384 ≤ r.n + (fuel + 1) ∧
    scanLoop s.params s.src false none (fuel + 1) r = unitScan (scanEntry s) := by
  obtain ⟨fuel, enough, answer⟩ := scan.answer
  obtain ⟨fuel, rfl⟩ : ∃ f, fuel = f + 1 := ⟨fuel - 1, by have := scan.range; omega⟩
  exact ⟨fuel, enough, answer⟩

theorem ForwardScan.hit {w : Word} {h : HeaderRec} (hit : attemptAt s.src r.cursor = .hit w h) :
    FirstFrame s h (r.record (.hit w h)) := by
  obtain ⟨fuel, -, answer⟩ := scan.fuel_succ
  rw [scanLoop_hit hit] at answer
  have reads := record_reads (src := s.src) scan.cursor
  rw [hit, scan.reads] at reads
  have bound := skipTag_le s.src
  have range := scan.range
  exact ⟨answer.symm, headerAt_valid (headerAt_of_hit hit), ⟨_, scan.cursor, by omega⟩, by omega⟩

variable (miss : NoHeaderAt s.src r.cursor)
include miss

theorem ForwardScan.next (more : r.n + 1 < 16384) : ForwardScan s (r.record (attemptAt s.src r.cursor)).advance := by
  obtain ⟨fuel, enough, answer⟩ := scan.fuel_succ
  obtain ⟨cursor, -, n, -, -⟩ := record_counters (attemptAt s.src r.cursor) r
  have reads := record_reads (src := s.src) scan.cursor
  rw [scanLoop_forward_miss (attemptAt_miss miss)] at answer
  dsimp only at answer
  rw [n, if_neg (by rw [maxScanRange_eq]; omega), ← n] at answer
  refine ⟨⟨fuel, ?_, answer⟩, ?_, ?_, ?_⟩ <;> dsimp only [ScanRun.advance] <;> rw [n]
  · omega
  · exact more
  · rw [cursor, scan.cursor]
    rfl
  · rw [reads, scan.reads]

theorem ForwardScan.exhausted (last : 16384 ≤ r.n + 1) :
    unitScan (scanEntry s) =
      (.error .scanExhausted,
        { r.record (attemptAt s.src r.cursor) with n := (r.record (attemptAt s.src r.cursor)).n + 1 }) := by
  obtain ⟨fuel, -, answer⟩ := scan.fuel_succ
  obtain ⟨-, -, n, -, -⟩ := record_counters (attemptAt s.src r.cursor) r
  rw [scanLoop_forward_miss (attemptAt_miss miss)] at answer
  dsimp only at answer
  rw [n, if_pos (by rw [maxScanRange_eq]; omega), ← n] at answer
  exact answer.symm

end Forward

/-! ### The exact-offset scan -/

theorem exactScan_enter (s : State) (h : HeaderRec) (first : ScanRun) :
    ExactScan s h first 0 (.enter (first.cursor + frameSize h)) := by
  obtain ⟨fuel, enough, run⟩ := scanRun_fuel s.params s.src (first.cursor + frameSize h) true (some h)
  exact ⟨⟨fuel, by omega, run.symm⟩, atProbe_enter .., Nat.zero_le _, rfl⟩

section Exact
variable {h : HeaderRec} {first : ScanRun} (frame : FirstFrame s h first)
include frame

/-- The computed offset, and the attempts around it: a frame is at least 24 bytes long, so none is below 0, and none is near the
end of the 32 bits (R168, R240). -/
theorem FirstFrame.next_bounds :
    ∃ next : Nat, first.cursor + frameSize h = next ∧ 24 ≤ next ∧ next + 5 < 2 ^ 32 := by
  obtain ⟨a, cursor, bound⟩ := frame.cursor
  obtain ⟨low, high⟩ := frameSizeFormula_bounds frame.valid
  rw [← frameSize_valid frame.valid] at low high
  have max := maxTagOffset_eq
  exact ⟨a + frameSize h, by rw [cursor, Nat.cast_add], by omega, by omega⟩

/-- Row TAG and the forward scan have made two reads at least. -/
theorem FirstFrame.reads_before (r : ScanRun) (port : ReadPort) (k : Option FailureKind) :
    2 ≤ (midScan (secondEntry (scanEntry s) h first) r port k).reads := by
  obtain ⟨made, -⟩ := frame.reads
  exact (Nat.add_le_add_left made 1).trans (Nat.le_add_right ..)

variable {i : Nat} {r : ScanRun} (scan : ExactScan s h first i r)
include scan

theorem ExactScan.cursor_small : ∃ a : Nat, r.cursor = a ∧ a < 2 ^ 32 := by
  obtain ⟨next, offset, low, high⟩ := frame.next_bounds
  obtain ⟨-, -, cursor⟩ := scan.probe
  obtain ⟨below, above⟩ := probePosition_bounds s.params.probeMode (first.cursor + frameSize h) scan.range
  exact ⟨r.cursor.toNat, by omega, by omega⟩

omit frame

theorem ExactScan.fuel_succ : ∃ fuel, 7 ≤ i + (fuel + 1) ∧ scanLoop s.params s.src true (some h) (fuel + 1) r =
    scanRun s.params s.src (first.cursor + frameSize h) true (some h) := by
  obtain ⟨fuel, enough, answer⟩ := scan.answer
  obtain ⟨fuel, rfl⟩ : ∃ f, fuel = f + 1 := ⟨fuel - 1, by have := scan.range; omega⟩
  exact ⟨fuel, enough, answer⟩

theorem ExactScan.hit {w : Word} {second : HeaderRec} (hit : attemptAt s.src r.cursor = .hit w second) :
    scanRun s.params s.src (first.cursor + frameSize h) true (some h) =
      (atFirstHit (some h) second r.cursor, r.record (.hit w second)) := by
  obtain ⟨fuel, -, answer⟩ := scan.fuel_succ
  rw [← answer, scanLoop_hit hit]

variable (miss : NoHeaderAt s.src r.cursor)
include miss

theorem ExactScan.exhausted (last : LastProbe s.params s.src (first.cursor + frameSize h) i) :
    scanRun s.params s.src (first.cursor + frameSize h) true (some h) =
      (.error .scanExhausted, r.record (attemptAt s.src r.cursor)) := by
  obtain ⟨fuel, -, answer⟩ := scan.fuel_succ
  obtain ⟨-, -, cursor⟩ := scan.probe
  rw [cursor] at miss ⊢
  rw [← answer, (scanLoop_exact_turn scan.probe miss).1 last]

include frame in
theorem ExactScan.next (going : ¬ LastProbe s.params s.src (first.cursor + frameSize h) i) :
    ExactScan s h first (i + 1) (afterProbe s.params s.src (first.cursor + frameSize h) i r) := by
  obtain ⟨fuel, enough, answer⟩ := scan.fuel_succ
  obtain ⟨a, natural, -⟩ := scan.cursor_small frame
  have reads := record_reads (src := s.src) natural
  obtain ⟨-, -, cursor⟩ := scan.probe
  rw [cursor] at miss reads
  rw [(scanLoop_exact_turn scan.probe miss).2 going] at answer
  have range : ¬ 6 ≤ i := fun seventh => going (.inl seventh)
  exact ⟨⟨fuel, by omega, answer⟩, atProbe_after .., by omega, reads.trans (congrArg (· + 1) scan.reads)⟩

end Exact

theorem exactMiss_of_ends {k : Option FailureKind} (ends : exactScanEnds k s = true) :
    exactMiss k s = endDetection (.error .scanExhausted) s :=
  if_pos ends

section ExactMiss
variable {r : ScanRun} {O : Int} {i : Nat} (probe : AtProbe s.params O i r) (range : i ≤ 6) (port : ReadPort)
  (k k' : Option FailureKind)
include probe range

theorem midScan_stepReg : (midScan s r port k).stepReg.toNat = i + 1 := by
  obtain ⟨-, step, -⟩ := probe
  exact (congrArg (· % 8) step).trans (Nat.mod_eq_of_lt (by omega))

/-- The sequencer and the loop end an exact-offset scan at the same attempt (R161, R162). -/
theorem exactScanEnds_midScan {a : Nat} (cursor : r.cursor = a)
    (kind : k' = some .sourceUnreadable ↔ memRead s.src a 4 = .short) :
    exactScanEnds k' (midScan s r port k) = true ↔ LastProbe s.params s.src O i := by
  have short : ShortAt s.src a ↔ k' = some .sourceUnreadable := by
    rw [kind]
    exact ⟨fun short => short.2, fun short => ⟨Int.natCast_nonneg a, short⟩⟩
  rw [LastProbe, ← probe.2.2, cursor, short, exactScanEnds, midScan_stepReg probe range, Config.exactTolerance]
  simp only [Bool.or_eq_true, decide_eq_true_eq, Bool.and_eq_true, beq_iff_eq]
  exact or_congr Nat.lt_succ_iff and_comm

theorem exactMiss_midScan {o a : Nat} (origin : O = o) (originSmall : o < 2 ^ 32) (cursor : r.cursor = a)
    (cursorSmall : a < 2 ^ 32) (going : exactScanEnds k' (midScan s r port k) = false) :
    exactMiss k' (midScan s r port k) =
      midScan s { r with cursor := probePosition s.params.probeMode O (i + 1), origin := O, step := i + 2 } port k' := by
  have pc := midScan_pc (s := s) cursor cursorSmall port k
  have stepReg := midScan_stepReg probe range port k
  obtain ⟨origin', step, cursor'⟩ := probe
  have originReg : (midScan s r port k).origin.toNat = o := by
    rw [midScan, writeScan, origin', origin, BitVec.ofInt_natCast]
    exact Nat.mod_eq_of_lt originSmall
  have stepNext : (midScan s r port k).stepReg + 1 = BitVec.ofNat 3 (i + 2) := by
    rw [show (midScan s r port k).stepReg = BitVec.ofNat 3 (i + 1) from congrArg (BitVec.ofNat 3) step]
    exact (BitVec.ofNat_add (i + 1) 1).symm
  rw [exactMiss, if_neg (Bool.eq_false_iff.1 going), originReg, pc, stepReg, stepNext, ← origin, ← cursor, cursor',
    ← nextProbe_position, ← origin']
  rfl

end ExactMiss

/-! ### A scan step and the attempt of the loop -/

section ScanStep
variable {r : ScanRun} {a : Nat} (ready : Ready s) (scanning : s.phase = .scan1 ∨ s.phase = .scan2)
  (cursor : r.cursor = a) (small : a < 2 ^ 32) (port : ReadPort) (k : Option FailureKind)
include ready scanning cursor small

theorem step_midScan_miss {attempt : Attempt} (made : attemptAt s.src r.cursor = attempt) (miss : NoHeaderAt s.src r.cursor) :
    ∃ k', (k' = some .sourceUnreadable ↔ memRead s.src a 4 = .short) ∧
      step (midScan s r port k) = .next (failedAttempt k' (midScan s (r.record attempt) (r.record attempt).port k)) := by
  have pc := midScan_pc (s := s) cursor small port k
  have taken := step_scan_miss (s := midScan s r port k) ready.steady scanning (by rw [pc, ← cursor]; exact miss)
  rw [fetched_midScan_miss ready.start ready.unitReq cursor small port k miss, pc, made] at taken
  exact taken

theorem step_midScan_hit {w : Word} {h : HeaderRec} (hit : attemptAt s.src r.cursor = .hit w h) :
    step (midScan s r port k) =
      .next (headerHit h
        { midScan s (r.record (.hit w h)) (r.record (.hit w h)).port k with hc := r.hc.getD s.hc }) := by
  have pc := midScan_pc (s := s) cursor small port k
  have taken := step_scan_hit (s := midScan s r port k) ready.steady scanning
    (by rw [pc, ← cursor]; exact headerAt_of_hit hit)
  rw [fetched_midScan ready.start ready.unitReq cursor small, hit] at taken
  exact taken

end ScanStep

/-- The chain step: the sequencer's adder and the offset of the second scan agree (R177). -/
theorem firstHit_midScan {r : ScanRun} {h : HeaderRec} (found : r.hc = some h) (hc : HeaderRec) (k : Option FailureKind) :
    firstHit h { midScan s r r.port k with hc := hc } =
      midScan (secondEntry s h r) (.enter (r.cursor + frameSize h)) r.port none := by
  have pc : BitVec.ofInt 32 (r.cursor + frameSize h) = BitVec.ofInt 32 r.cursor + BitVec.ofNat 32 (frameSize h) := by
    rw [BitVec.ofInt_add, BitVec.ofInt_natCast]
  have latched : (chainEntry s h r).hc = h := congrArg (Option.getD · s.hc) found
  rw [midScan_enter rfl rfl rfl]
  calc firstHit h { midScan s r r.port k with hc := hc }
    _ = { chainEntry s h r with hc := h, phase := .scan2, port := r.port, lastFailure := none } := by
      rw [chainEntry, pc]
      rfl
    _ = { chainEntry s h r with phase := .scan2, port := r.port, lastFailure := none } := by simp only [latched]

/-! ### Every step leads on -/

section Step
variable (ready : Ready s)
include ready

/-- Row TAG leads to the registers that DETECT's forward scan starts from. -/
theorem advances_tag : Advances s (startDetection s) := by
  have entry : midScan (scanEntry s) (.enter (skipTag s.src 0)) (scanEntry s).port (scanEntry s).lastFailure = scanEntry s :=
    midScan_enter (BitVec.ofInt_natCast ..).symm (BitVec.ofInt_natCast ..).symm rfl _ _
  refine ⟨scanEntry s, ?_, rfl, .inl (entry ▸ .forward (forwardScan_enter s) _ _)⟩
  rw [step_tagRow (s := startDetection s) ready.steady rfl,
    consumeInputs_of_none (s := startDetection s) ready.start ready.unitReq]
  rfl

theorem Ready.atEntry : Ready (scanEntry s) := ⟨ready.steady, ready.start, ready.unitReq⟩

theorem Ready.atSecondEntry (h : HeaderRec) (r : ScanRun) : Ready (secondEntry (scanEntry s) h r) :=
  ⟨ready.steady, ready.start, ready.unitReq⟩

section Forward
variable {r : ScanRun} (scan : ForwardScan s r) (port : ReadPort) (k : Option FailureKind)
include scan

theorem advances_forward_miss (miss : NoHeaderAt s.src r.cursor) : Advances s (midScan (scanEntry s) r port k) := by
  obtain ⟨k', -, taken⟩ := step_midScan_miss (attempt := attemptAt s.src r.cursor) ready.atEntry (.inl rfl)
    scan.cursor scan.cursor_small port k rfl miss
  rw [failedAttempt_scan1 _ rfl] at taken
  have reads := record_reads (src := s.src) scan.cursor
  obtain ⟨-, -, n, -, -⟩ := record_counters (attemptAt s.src r.cursor) r
  have range := scan.range
  have count := midScan_scanEntry_n (s := s) (r := r.record (attemptAt s.src r.cursor))
    (port := (r.record (attemptAt s.src r.cursor)).port) (k := k) (n.trans_lt range)
  refine ⟨_, taken, ?_⟩
  by_cases more : r.n + 1 < 16384
  · rw [forwardMiss_midScan (by rw [count]; omega)]
    exact ⟨congrArg (1 + ·) reads, .inl (.forward (scan.next miss more) _ _)⟩
  · rw [forwardMiss_midScan_last (by rw [count]; omega)]
    refine ⟨(endDetection_reads ..).trans (congrArg (1 + ·) reads),
      .inr ⟨(detectOnState_failed (scan.exhausted miss (by omega)) k).symm, ?_⟩⟩
    rw [midScan_scanEntry_reads, scan.reads]
    omega

theorem advances_forward_hit {w : Word} {h : HeaderRec} (hit : attemptAt s.src r.cursor = .hit w h) :
    Advances s (midScan (scanEntry s) r port k) := by
  have taken := step_midScan_hit ready.atEntry (.inl rfl) scan.cursor scan.cursor_small port k hit
  rw [headerHit_scan1 _ rfl, firstHit_midScan (h := h) rfl] at taken
  have reads := record_reads (src := s.src) scan.cursor
  rw [hit] at reads
  exact ⟨_, taken, congrArg (1 + ·) reads, .inl (.exact (scan.hit hit) (exactScan_enter ..) _ _)⟩

end Forward

section Exact
variable {h : HeaderRec} {first r : ScanRun} {i : Nat} (frame : FirstFrame s h first) (scan : ExactScan s h first i r)
  (port : ReadPort) (k : Option FailureKind)
include frame scan

theorem advances_exact_miss (miss : NoHeaderAt s.src r.cursor) :
    Advances s (midScan (secondEntry (scanEntry s) h first) r port k) := by
  obtain ⟨a, natural, small⟩ := scan.cursor_small frame
  obtain ⟨k', kind, taken⟩ := step_midScan_miss (attempt := attemptAt s.src r.cursor) (ready.atSecondEntry h first)
    (.inr rfl) natural small port k rfl miss
  rw [failedAttempt_scan2 _ rfl] at taken
  have reads := record_reads (src := s.src) natural
  obtain ⟨cursor', origin', -, step', -⟩ := record_counters (attemptAt s.src r.cursor) r
  obtain ⟨origin, step, cursor⟩ := scan.probe
  have probe : AtProbe s.params (first.cursor + frameSize h) i (r.record (attemptAt s.src r.cursor)) :=
    ⟨origin'.trans origin, step'.trans step, cursor'.trans cursor⟩
  have ends := exactScanEnds_midScan (s := secondEntry (scanEntry s) h first) probe scan.range
    (r.record (attemptAt s.src r.cursor)).port k k' (cursor'.trans natural) kind
  refine ⟨_, taken, ?_⟩
  by_cases last : LastProbe s.params s.src (first.cursor + frameSize h) i
  · rw [exactMiss_of_ends (ends.2 last)]
    exact ⟨(endDetection_reads ..).trans (congrArg (1 + first.reads + ·) reads),
      .inr ⟨(detectOnState_chain frame.found (scan.exhausted miss last) k).symm, frame.reads_before r port k⟩⟩
  · have going := Bool.eq_false_iff.2 (last ∘ ends.1)
    obtain ⟨o, offset, -, high⟩ := frame.next_bounds
    rw [exactMiss_midScan (s := secondEntry (scanEntry s) h first) probe scan.range _ _ _ offset (by omega)
      (cursor'.trans natural) small going]
    have next := scan.next frame miss last
    rw [afterProbe, ← cursor] at next
    exact ⟨congrArg (1 + first.reads + ·) reads, .inl (.exact frame next _ _)⟩

theorem advances_exact_hit {w : Word} {second : HeaderRec} (hit : attemptAt s.src r.cursor = .hit w second) :
    Advances s (midScan (secondEntry (scanEntry s) h first) r port k) := by
  obtain ⟨a, natural, small⟩ := scan.cursor_small frame
  have taken := step_midScan_hit (ready.atSecondEntry h first) (.inr rfl) natural small port k hit
  rw [headerHit_scan2 _ rfl, secondHit_eq_endDetection _ r.cursor] at taken
  have reads := record_reads (src := s.src) natural
  rw [hit] at reads
  exact ⟨_, taken, (endDetection_reads ..).trans (congrArg (1 + first.reads + ·) reads),
    .inr ⟨(detectOnState_chain frame.found (scan.hit hit) k).symm, frame.reads_before r port k⟩⟩

end Exact

end Step

/-! ### A whole detection -/

theorem attempt_hit_or_miss (src : Memory) (c : Int) : (∃ w h, attemptAt src c = .hit w h) ∨ NoHeaderAt src c := by
  by_cases here : ∃ h, HeaderAt src c h
  · obtain ⟨h, here⟩ := here
    obtain ⟨w, hit⟩ := attemptAt_hit here
    exact .inl ⟨w, h, hit⟩
  · exact .inr (not_exists.1 here)

/-- The step of every state of a detection. -/
theorem Underway.advances (ready : Ready s) {u : State} (underway : Underway s u) : Advances s u := by
  cases underway with
  | tag => exact advances_tag ready
  | @forward r scan port k =>
    obtain ⟨w, h, hit⟩ | miss := attempt_hit_or_miss s.src r.cursor
    · exact advances_forward_hit ready scan port k hit
    · exact advances_forward_miss ready scan port k miss
  | @exact h first r i frame scan port k =>
    obtain ⟨w, second, hit⟩ | miss := attempt_hit_or_miss s.src r.cursor
    · exact advances_exact_hit ready frame scan port k hit
    · exact advances_exact_miss ready frame scan port k miss

/-- R190's bound, by the reads of the phases so far: one in TAG, 16384 in SCAN1 and 7 in SCAN2. -/
theorem Underway.reads_le {u : State} (underway : Underway s u) : u.reads ≤ 16391 := by
  cases underway with
  | tag => exact Nat.zero_le _
  | forward scan =>
    have reads := scan.reads
    have range := scan.range
    rw [midScan_scanEntry_reads]
    omega
  | @exact h first r i frame scan =>
    obtain ⟨-, before⟩ := frame.reads
    have reads := scan.reads
    have range := scan.range
    change 1 + first.reads + r.reads ≤ 16391
    omega

/-- What the outputs show until the detection ends (R186, R238). -/
theorem Underway.outputs {u : State} (underway : Underway s u) :
    u.phase ≠ .idle ∧ u.busy = true ∧ u.done = false ∧ u.verdict = false := by
  cases underway <;> exact ⟨nofun, rfl, rfl, rfl⟩

theorem run_succ (M : Host.Core) {u t : M.State} (taken : M.step u = .next t) (m : Nat) : M.run (m + 1) u = M.run m t := by
  rw [Host.Core.run, taken]

theorem runSteps_succ {u t : State} (taken : step u = .next t) (m : Nat) : runSteps (m + 1) u = runSteps m t :=
  run_succ Sys2Proof.core taken m

/-- After `m` more steps from `u`, and no earlier, the detection ends, in the registers that DETECT leaves. -/
structure EndsAfter (s u : State) (m : Nat) : Prop where
  last : runSteps m u = .next (detectOnState s).2
  reads : (detectOnState s).2.reads = u.reads + m
  low : 3 ≤ u.reads + m
  high : u.reads + m ≤ 16392
  before : ∀ j, j < m → ∃ v, runSteps j u = .next v ∧ Underway s v ∧ v.reads = u.reads + j

theorem endsAfter_one {u : State} (underway : Underway s u) (taken : step u = .next (detectOnState s).2)
    (reads : (detectOnState s).2.reads = u.reads + 1) (low : 2 ≤ u.reads) : EndsAfter s u 1 where
  last := runSteps_succ taken 0
  reads := reads
  low := Nat.succ_le_succ low
  high := Nat.succ_le_succ underway.reads_le
  before := fun j first => by
    obtain rfl : j = 0 := Nat.lt_one_iff.1 first
    exact ⟨u, rfl, underway, rfl⟩

theorem EndsAfter.succ {u t : State} {m : Nat} (ends : EndsAfter s t m) (underway : Underway s u)
    (taken : step u = .next t) (reads : t.reads = u.reads + 1) : EndsAfter s u (m + 1) := by
  obtain ⟨last, total, low, high, before⟩ := ends
  have shift : ∀ j, t.reads + j = u.reads + (j + 1) := fun j => by omega
  rw [shift] at total low high
  refine ⟨(runSteps_succ taken m).trans last, total, low, high, fun j earlier => ?_⟩
  cases j with
  | zero => exact ⟨u, rfl, underway, rfl⟩
  | succ j =>
    obtain ⟨v, run, on, made⟩ := before j (Nat.lt_of_succ_lt_succ earlier)
    exact ⟨v, (runSteps_succ taken j).trans run, on, made.trans (shift j)⟩

/-- Every detection ends: each step makes a read, and there are only so many while it is under way. -/
theorem Underway.ends (ready : Ready s) (left : Nat) {u : State} (underway : Underway s u)
    (enough : 16391 < u.reads + left) : ∃ m, EndsAfter s u m := by
  induction left generalizing u with
  | zero => exact absurd underway.reads_le (Nat.not_le_of_lt enough)
  | succ left ih =>
    obtain ⟨t, taken, reads, on | ⟨rfl, low⟩⟩ := underway.advances ready
    · obtain ⟨m, ends⟩ := ih on (by omega)
      exact ⟨m + 1, ends.succ underway taken reads⟩
    · exact ⟨1, endsAfter_one underway taken reads low⟩

/-- A start begins a detection, whose end is DETECT's. -/
theorem detection_ends (steady : Steady s) (phase : s.phase = .idle) (start : s.start = true) :
    ∃ m, EndsAfter (consumeInputs s) (startDetection (consumeInputs s)) m ∧
      ∀ j, runSteps (j + 1) s = runSteps j (startDetection (consumeInputs s)) := by
  obtain ⟨m, ends⟩ := Underway.tag.ends (s := consumeInputs s) ⟨steady, rfl, rfl⟩ 16392 (Nat.le_add_left ..)
  exact ⟨m, ends, runSteps_succ (step_start steady.1 phase start)⟩

/-- Settles O40: the last step of the detection leaves DETECT's registers. -/
theorem sequencerAgreesWithDetect : Obligations.SequencerAgreesWithDetect := by
  intro s steady phase start
  obtain ⟨m, ends, run⟩ := detection_ends steady phase start
  have high := ends.high
  rw [startDetection_reads, Nat.zero_add] at high
  exact ⟨m + 1, _, Nat.succ_le_succ high, (run m).trans ends.last, rfl, rfl, detectOnState_verdict (consumeInputs s),
    exec_detect (s := consumeInputs s) phase⟩

/-- Settles O41: one read a step, and the outputs of a detection under way until the last. -/
theorem detectionWorkBound : Obligations.DetectionWorkBound := by
  intro s steady phase start
  obtain ⟨m, ⟨last, reads, low, high, before⟩, run⟩ := detection_ends steady phase start
  simp only [startDetection_reads, Nat.zero_add] at reads low high before
  refine ⟨m + 1, _, Nat.succ_le_succ low, Nat.succ_le_succ high, (run m).trans last, rfl, rfl, rfl,
    congrArg (· + 1) reads, fun j later earlier => ?_⟩
  obtain ⟨j, rfl⟩ : ∃ i, j = i + 1 := ⟨j - 1, by omega⟩
  obtain ⟨v, taken, underway, made⟩ := before j (Nat.lt_of_succ_lt_succ earlier)
  obtain ⟨phase, busy, done, verdict⟩ := underway.outputs
  exact ⟨v, (run j).trans taken, phase, busy, done, verdict, congrArg (· + 1) made⟩

end Sys2Proof.Machine
end

section
/-! Nothing is fatal (R200): every instruction answers a next state, and so does every step but the one that takes an unassigned
unit code (R87). -/

namespace Sys2Proof.Machine

/-! ### Every instruction -/

/-- Outside IDLE a DETECT is ignored (R237). -/
theorem exec_detect_busy {s : State} (busy : s.phase ≠ .idle) : exec .detect s = .next s := by
  cases phase : s.phase with
  | idle => exact absurd phase busy
  | tag | scan1 | scan2 => rw [exec, execDetect, phase]

theorem exec_unit_next {i : Instr} (unit : i.format = .unitOp) (s : State) : ∃ t, exec i s = .next t := by
  cases i <;> cases unit
  case detect =>
    by_cases idle : s.phase = .idle
    · exact ⟨_, exec_detect idle⟩
    · exact ⟨_, exec_detect_busy idle⟩
  case decode =>
    cases answer : decodeWord s.w with
    | ok h => exact ⟨_, exec_decode_ok answer⟩
    | error k => exact ⟨_, exec_decode_error answer⟩
  case skiptag | findframe | verify | fsize | matchHeaders => exact ⟨_, rfl⟩

/-- A header row is a hit or a failed attempt, a tag row moves the cursor, and no unit stops. -/
theorem exec_next (i : Instr) (s : State) : ∃ t, exec i s = .next t := by
  cases format : i.format with
  | mpegHdr32 =>
    obtain ⟨h, row⟩ | ⟨k, row⟩ := headerRow_cases format
    · exact ⟨_, exec_of_rowRecord row s⟩
    · exact ⟨_, exec_of_rejectKind row s⟩
  | id3v2Hdr80 =>
    obtain ⟨footer, fields, rfl⟩ := tagRow_cases format
    exact ⟨_, exec_tagInstr footer fields s⟩
  | unitOp => exact exec_unit_next format s

/-! ### Every step -/

theorem decode_unitOp_isOk : ∀ b : Byte, b.toNat < 7 → (decode .unitOp [b]).isOk = true := by decide

/-- The codes that name no unit are 7 and above (R87). -/
theorem decode_unitOp_error {b : Byte} {e : DecodeReject} (rejected : decode .unitOp [b] = .error e) : 7 ≤ b.toNat := by
  refine Nat.le_of_not_lt fun assigned => ?_
  have named := decode_unitOp_isOk b assigned
  rw [rejected] at named
  cases named

theorem stepIdle_next_or_refused (s : State) :
    (∃ t, stepIdle s = .next t) ∨
    ∃ b, 7 ≤ b.toNat ∧ s.start = false ∧ s.unitReq = some b ∧ stepIdle s = .refused (.unassignedUnit b) := by
  cases start : s.start with
  | true => exact .inl ⟨_, by rw [stepIdle, if_pos start]⟩
  | false =>
    cases request : s.unitReq with
    | none => exact .inl ⟨consumeInputs s, by simp [stepIdle, start, request]⟩
    | some b =>
      cases decoded : decode .unitOp [b] with
      | ok i =>
        rw [stepIdle_row start request decoded]
        exact .inl (exec_next i _)
      | error e => exact .inr ⟨b, decode_unitOp_error decoded, rfl, rfl, by simp [stepIdle, start, request, decoded]⟩

theorem stepScan_next (s : State) : ∃ t, stepScan s = .next t := by
  obtain ⟨-, k, taken⟩ | ⟨h, -, taken⟩ := stepScan_cases s <;> exact ⟨_, taken⟩

/-- A step that fetches, by its phase. -/
theorem step_fetches {s : State} (steady : Steady s) (busy : s.phase ≠ .idle) :
    step s = if s.phase = .tag then stepTag s else stepScan s := by
  cases phase : s.phase with
  | idle => exact absurd phase busy
  | tag => exact step_tag steady.1 phase steady.2
  | scan1 => exact step_scan steady.1 (.inl phase) steady.2
  | scan2 => exact step_scan steady.1 (.inr phase) steady.2

/-- Outside IDLE, and in reset, no step stops. -/
theorem step_next {s : State} (running : s.rst = true ∨ s.phase ≠ .idle) : ∃ t, step s = .next t := by
  cases reset : s.rst with
  | true => exact ⟨_, step_of_rst reset⟩
  | false =>
    have busy : s.phase ≠ .idle := running.resolve_left (Bool.eq_false_iff.1 reset)
    cases answers : s.srcAnswers with
    | false => exact ⟨_, step_waits reset busy answers⟩
    | true =>
      rw [step_fetches ⟨reset, answers⟩ busy]
      split
      next phase => exact ⟨_, stepTag_eq phase⟩
      next => exact stepScan_next s

/-- Settles O57: only a unit request, taken in IDLE, can be refused. -/
theorem nothingIsFatal : Obligations.NothingIsFatal := by
  refine ⟨exec_next, fun s => ?_⟩
  by_cases running : s.rst = true ∨ s.phase ≠ .idle
  · exact .inl (step_next running)
  · obtain ⟨reset, idle⟩ := not_or.1 running
    replace reset : s.rst = false := Bool.eq_false_iff.2 reset
    replace idle : s.phase = .idle := not_not.1 idle
    rw [step_idle reset idle]
    exact (stepIdle_next_or_refused s).imp_right fun ⟨b, unassigned, start, request, refused⟩ =>
      ⟨b, unassigned, reset, idle, start, request, refused⟩

end Sys2Proof.Machine
end

section
/-! The inputs of a detection in progress: reset goes before everything (R230), a `start` is not taken (R237), and a source that
does not answer only delays the block (R239). -/

namespace Sys2Proof.Machine

/-- Settles O49: the registers of `State.reset`, and what the environment holds. -/
theorem resetStep : Obligations.ResetStep := fun _ reset => ⟨_, _, _, step_of_rst reset⟩

/-- Settles O51: the request of the phase stands. -/
theorem waitsForTheSource : Obligations.WaitsForTheSource := fun _ reset silent busy => step_waits reset busy silent

variable {s t : State}

/-! ### The rows of a scan leave `start` as it is -/

theorem forwardMiss_start (k : Option FailureKind) (s : State) : (forwardMiss k s).start = s.start := by
  obtain ⟨-, row⟩ | ⟨-, row⟩ := forwardMiss_cases k s
  · rw [row, finishDetection_start]
  · rw [row]

theorem exactMiss_start (k : Option FailureKind) (s : State) : (exactMiss k s).start = s.start := by
  obtain ⟨-, row⟩ | ⟨-, row⟩ := exactMiss_cases k s
  · rw [row, finishDetection_start]
  · rw [row]

theorem secondHit_start (h : HeaderRec) (s : State) : (secondHit h s).start = s.start := by
  unfold secondHit
  split <;> rfl

/-! ### A start while the block is busy -/

/-- Every row of a busy phase runs on the registers after the inputs are taken. -/
theorem step_takes_start (busy : s.phase ≠ .idle) (taken : step s = .next t) : t.start = false := by
  cases stepRow_of_step taken with
  | reset | waits | tag | firstHit => rfl
  | start _ idle | hold _ idle | unit _ idle => exact absurd idle busy
  | forwardMiss k => exact forwardMiss_start k (fetched s)
  | exactMiss k => exact exactMiss_start k (fetched s)
  | secondHit h => exact secondHit_start h (fetched s)

/-- Only a step in IDLE reads `start`. -/
theorem step_start_irrelevant (busy : s.phase ≠ .idle) (b : Bool) : step { s with start := b } = step s := by
  obtain reset | reset := Bool.eq_false_or_eq_true s.rst
  · exact (step_of_rst (s := { s with start := b }) reset).trans (step_of_rst reset).symm
  obtain answers | answers := Bool.eq_false_or_eq_true s.srcAnswers
  · exact (step_fetches (s := { s with start := b }) ⟨reset, answers⟩ busy).trans (step_fetches ⟨reset, answers⟩ busy).symm
  · exact (step_waits (s := { s with start := b }) reset busy answers).trans (step_waits reset busy answers).symm

/-- Settles O36: DETECT is ignored, and every step in a busy phase drops a `start` unread. -/
theorem startIgnoredWhileBusy : Obligations.StartIgnoredWhileBusy := fun _ busy =>
  ⟨exec_detect_busy busy, step_start_irrelevant busy, fun _ => step_takes_start busy⟩

end Sys2Proof.Machine
end

section
/-! A detection does not depend on the one before it (R233): DETECT's two scans are those of the source and the parameters, and
the registers that it leaves are those of its scans. -/

namespace Sys2Proof.Machine

/-- The outputs, the cursor, the counters and the flags of two detections agree; `W`, `T`, `HC`, `HB` and `fsize` may not, because
a detection that writes none of them leaves what it found. -/
structure SameDetection (t t' : State) : Prop where
  verdict : t.verdict = t'.verdict
  pc : t.pc = t'.pc
  origin : t.origin = t'.origin
  n : t.n = t'.n
  stepReg : t.stepReg = t'.stepReg
  exact : t.exact = t'.exact
  findsub : t.findsub = t'.findsub
  hbValid : t.hbValid = t'.hbValid
  reads : t.reads = t'.reads
  lastFailure : t.lastFailure = t'.lastFailure

variable {s s' : State}

/-- DETECT's forward scan has found a frame where it stands, or none. -/
theorem firstScan_cases (p : Params) (src : Memory) :
    (∃ e r, scanRun p src (skipTag src 0) false none = (.error e, r)) ∨
    ∃ h r, scanRun p src (skipTag src 0) false none = (.ok (h, r.cursor), r) := by
  rcases run : scanRun p src (skipTag src 0) false none with ⟨answer, r⟩
  cases answer with
  | error e => exact .inl ⟨e, r, rfl⟩
  | ok found =>
    obtain ⟨cursor, -⟩ := scanLeaves_found (scanRun_leaves false) (congrArg Prod.fst run)
    rw [run] at cursor
    exact .inr ⟨found.1, r, by rw [cursor]⟩

/-- The registers of a scan that was entered behind the tag depend on the scan alone. -/
theorem sameDetection_scanEntry (r : ScanRun) (port : ReadPort) (k : Option FailureKind) :
    SameDetection (midScan (scanEntry s) r port k) (midScan (scanEntry s') r port k) :=
  ⟨rfl, rfl, rfl, rfl, rfl, rfl, rfl, rfl, rfl, rfl⟩

theorem sameDetection_secondEntry (h : HeaderRec) (first r : ScanRun) (port : ReadPort) (k : Option FailureKind) :
    SameDetection (midScan (secondEntry (scanEntry s) h first) r port k)
      (midScan (secondEntry (scanEntry s') h first) r port k) :=
  ⟨rfl, rfl, rfl, rfl, rfl, rfl, rfl, rfl, rfl, rfl⟩

theorem SameDetection.endDetection (same : SameDetection s s') (answer : ScanResult) :
    SameDetection (endDetection answer s) (endDetection answer s') := by
  cases answer <;>
    exact ⟨rfl, same.pc, same.origin, same.n, same.stepReg, same.exact, same.findsub, same.hbValid, same.reads, rfl⟩

theorem detectOnState_same (src : s.src = s'.src) (params : s.params = s'.params) :
    SameDetection (detectOnState s).2 (detectOnState s').2 := by
  have scan : unitScan (scanEntry s) = unitScan (scanEntry s') := by
    rw [unitScan_scanEntry, unitScan_scanEntry, src, params]
  obtain ⟨e, r, first⟩ | ⟨h, r, first⟩ := firstScan_cases s'.params s'.src <;>
    replace first := unitScan_scanEntry.trans first
  · rw [detectOnState_failed (scan.trans first) none, detectOnState_failed first none]
    exact (sameDetection_scanEntry ..).endDetection _
  · rcases second : scanRun s'.params s'.src (r.cursor + frameSize h) true (some h) with ⟨answer, r'⟩
    rw [detectOnState_chain (scan.trans first) (by rw [src, params, second]) none,
      detectOnState_chain first second none]
    exact (sameDetection_secondEntry ..).endDetection _

/-- Settles O37: the unit's report adds its own ghost only. -/
theorem detectForgetsThePast : Obligations.DetectForgetsThePast := by
  intro s s' idle idle' src params
  obtain ⟨verdict, pc, origin, n, stepReg, exact, findsub, hbValid, reads, lastFailure⟩ := detectOnState_same src params
  exact ⟨_, _, exec_detect idle, exec_detect idle', verdict, pc, origin, n, stepReg, exact, findsub, hbValid, reads,
    lastFailure⟩

end Sys2Proof.Machine
end

section
/-! The bounds of the cursor inside a detection (R240, R170), from the invariant that every step keeps. -/

namespace Sys2Proof.Machine

variable {s : State}

/-- In the cumulative mode no probe is further than three below the computed offset (R161). -/
theorem probePosition_cumulative_low (O : Int) {k : Nat} (hk : k ≤ 6) : O - 3 ≤ probePosition .cumulative O k := by
  simp only [probePosition]
  split <;> omega

theorem forwardScan_pc_le (inv : Inv s) (phase : s.phase = .scan1) : s.pc.toNat ≤ 536870931 + 16383 := by
  have registers := inv.2
  simp only [PhaseInv, phase, maxTagOffset_eq, maxScanRange_eq] at registers
  obtain ⟨-, -, -, -, -, -, -, range, origin, pc⟩ := registers
  omega

theorem exactScan_pc_bounds (inv : Inv s) (phase : s.phase = .scan2) :
    s.pc.toNat + 3 ≤ 536890203 ∧ 18 ≤ s.pc.toNat ∧ (s.params.probeMode = .cumulative → 21 ≤ s.pc.toNat) := by
  have registers := inv.2
  simp only [PhaseInv, phase, maxTagOffset_eq] at registers
  obtain ⟨-, -, -, -, -, -, -, -, -, first, last, low, high, pc⟩ := registers
  have probe : s.stepReg.toNat - 1 ≤ 6 := Nat.sub_le_of_le_add last
  obtain ⟨below, above⟩ := probePosition_bounds s.params.probeMode s.origin.toNat probe
  refine ⟨by omega, by omega, fun cumulative => ?_⟩
  have near := probePosition_cumulative_low s.origin.toNat probe
  rw [cumulative] at pc
  omega

/-- The chain step's addition carries nothing out of the 32 bits of the cursor (R177, R240). -/
theorem chainStep_pc_toNat {pc : Offset} {h : HeaderRec} (low : pc.toNat ≤ 536870931 + 16383)
    (valid : validRecord h = true) :
    (pc + BitVec.ofNat 32 (frameSizeFormula h)).toNat = pc.toNat + frameSizeFormula h := by
  obtain ⟨-, size⟩ := frameSizeFormula_bounds valid
  rw [BitVec.toNat_add, BitVec.toNat_ofNat]
  omega

/-- Settles O60: the bounds of each scan, and the Hit row's addition below them. -/
theorem cursorStaysInRange : Obligations.CursorStaysInRange := by
  refine fun s inv => ⟨fun phase => ?forward, exactScan_pc_bounds inv, ?chain⟩
  case forward =>
    have low := forwardScan_pc_le inv phase
    exact ⟨Nat.add_le_add_right low 3, by bv_omega⟩
  case chain =>
    intro t b0 b1 b2 b3 h steady phase bytes candidate decoded taken
    rw [forwardScanStepHits s b0 b1 b2 b3 h steady phase bytes candidate decoded] at taken
    cases taken
    exact chainStep_pc_toNat (forwardScan_pc_le inv phase) (decodeWord_valid decoded)

end Sys2Proof.Machine
end
